-- ==== Sys2Proof/Word.lean ====
section
/-! DEFINITION. The word types of the block (00_scope.md R4, 30_encoding.md R45). All values are unsigned. -/

namespace Sys2Proof

/-- A frame field, 8 bits unsigned (R4). -/
abbrev Byte := BitVec 8

/-- A hash, a device address or a sub-device address, 16 bits (R4). -/
abbrev Half := BitVec 16

/-- The operand field `P` of an operation word, 64 bits (R45). -/
abbrev Operand := BitVec 64

/-- An operation word `OW`, 72 bits (R45). -/
abbrev OpWord := BitVec 72

/-- The lanes that hold one tracker register: channel `k` at bit `k - 1` (10_state.md R17). -/
abbrev Lanes := BitVec 64

end Sys2Proof
end

