-- ==== Sys2Proof/Syntax.lean ====
section
/-! DEFINITION. The operations of the block: one constructor for each row of spec/opcode_table.json (30_encoding.md R50).
The operands stand in the order of the source call (R58); each has exactly the width of its field (R46, R53). -/

namespace Sys2Proof

/-- One operation of the block. The docstrings give the source call that R60 maps to it. -/
inductive Instr where
  /-- FCLR: create the frame zero-filled (R65). -/
  | fclr
  /-- FLOAD: create the frame from the staged buffer (R66). -/
  | fload
  /-- FGET f: `get(fieldName)` (R67). -/
  | fget (f : Byte)
  /-- FSET f, v: `set(fieldName, byte)` (R68). -/
  | fset (f v : Byte)
  /-- FREAD: `asBytes()`, `frame()` (R69). -/
  | fread
  /-- RXPUT b: stage one byte (R70). -/
  | rxput (b : Byte)
  /-- RXCLR: drop the staged bytes (R71). -/
  | rxclr
  /-- SETPRIO p: `setPriority(p)` (R85). -/
  | setprio (p : Byte)
  /-- SETDLC n: `setDataLength(n)` (R86). -/
  | setdlc (n : Byte)
  /-- SETCMD code, r, dlc: `setCommand(code, isResponse, dlc)` (R87). -/
  | setcmd (code : Byte) (r : Bool) (dlc : Byte)
  /-- SETHASH h: `setHash(hash16)` (R89). -/
  | sethash (h : Half)
  /-- SETDEV dev, sub: `setDeviceAddress(deviceId, subId)` (R90). -/
  | setdev (dev sub : Half)
  /-- SETTRK dev, sub, state, recent: `setTrackState(deviceId, subId, state, recentState)` (R91). -/
  | settrk (dev sub : Half) (state recent : Byte)
  /-- TOGTRK: `toggleTrackState()` with no argument (R92). -/
  | togtrk
  /-- TOGTRKV new: `toggleTrackState(newState)` (R93). -/
  | togtrkv (new : Byte)
  /-- FRESP: `response()` (R94). -/
  | fresp
  /-- HASH id: AddressHash (R80). -/
  | hash (id : Operand)
  /-- DECODE: `decode()` (R100). -/
  | decode
  /-- TSETBIT n, v: `setBit(n, value)` (R141). -/
  | tsetbit (n : Byte) (v : Bool)
  /-- TSETON n: `setBitOn` (R142). -/
  | tseton (n : Byte)
  /-- TSETOFF n: `setBitOff` (R143). -/
  | tsetoff (n : Byte)
  /-- TSETALL bits: `setAll(bits)` (R145). -/
  | tsetall (bits : Operand)
  /-- TCOMMIT: `commit()` (R146). -/
  | tcommit
  /-- TRESET: `reset()` (R147). -/
  | treset
  /-- TDIFF: `changedChannels()` (R148). -/
  | tdiff
  /-- TSTR: `shortString()` (R149). -/
  | tstr
  /-- TCHG: read of `changed` (R150). -/
  | tchg
  deriving DecidableEq, Repr

end Sys2Proof
end

