-- ==== Sys2Proof/Decode.lean ====
section
/-! DEFINITION. Decoding and encoding of the operation word (30_encoding.md R45 to R53). Decoding is total and goes in
the order of R48: opcode, reserved bits, operands. -/

namespace Sys2Proof

/-- Why a word is illegal; both are answered with `IllegalOperation` (R48). -/
inductive Illegal where
  /-- The opcode is not in the map (R51). -/
  | reservedOpcode
  /-- A reserved bit of `P` is set (R49). -/
  | reservedBit
  deriving DecidableEq, Repr

/-- `OPC = OW[71:64]` (R45). -/
def opcodeOf (w : OpWord) : Byte := w.extractLsb' 64 8

/-- `P = OW[63:0]` (R45). -/
def operandOf (w : OpWord) : Operand := w.extractLsb' 0 64

/-- An operand of 8 bits at `P[lo+7:lo]` (R46). -/
def byteField (p : Operand) (lo : Nat) : Byte := p.extractLsb' lo 8

/-- An operand of 16 bits at `P[lo+15:lo]` (R46). -/
def halfField (p : Operand) (lo : Nat) : Half := p.extractLsb' lo 16

/-- An operand of one bit, `P[i]` (R46). -/
def bitField (p : Operand) (i : Nat) : Bool := p.getLsbD i

/-- The opcode map (R50): for an assigned opcode the reserved bits of `P` and the operation with its operands. -/
def opcodeMap (opc : Nat) (p : Operand) : Option (Operand × Instr) :=
  match opc with
  | 0x01 => some (0xFFFFFFFFFFFFFFFF#64, .fclr)
  | 0x02 => some (0xFFFFFFFFFFFFFFFF#64, .fload)
  | 0x03 => some (0xFFFFFFFFFFFFFF00#64, .fget (byteField p 0))
  | 0x04 => some (0xFFFFFFFFFFFF0000#64, .fset (byteField p 8) (byteField p 0))
  | 0x05 => some (0xFFFFFFFFFFFFFFFF#64, .fread)
  | 0x06 => some (0xFFFFFFFFFFFFFF00#64, .rxput (byteField p 0))
  | 0x07 => some (0xFFFFFFFFFFFFFFFF#64, .rxclr)
  | 0x10 => some (0xFFFFFFFFFFFFFF00#64, .setprio (byteField p 0))
  | 0x11 => some (0xFFFFFFFFFFFFFF00#64, .setdlc (byteField p 0))
  | 0x12 => some (0xFFFFFFFFFF00FE00#64, .setcmd (byteField p 0) (bitField p 8) (byteField p 16))
  | 0x13 => some (0xFFFFFFFFFFFF0000#64, .sethash (halfField p 0))
  | 0x14 => some (0xFFFFFFFF00000000#64, .setdev (halfField p 16) (halfField p 0))
  | 0x15 => some (0xFFFF000000000000#64,
      .settrk (halfField p 32) (halfField p 16) (byteField p 8) (byteField p 0))
  | 0x16 => some (0xFFFFFFFFFFFFFFFF#64, .togtrk)
  | 0x17 => some (0xFFFFFFFFFFFFFF00#64, .togtrkv (byteField p 0))
  | 0x18 => some (0xFFFFFFFFFFFFFFFF#64, .fresp)
  | 0x20 => some (0#64, .hash p)
  | 0x30 => some (0xFFFFFFFFFFFFFFFF#64, .decode)
  | 0x40 => some (0xFFFFFFFFFFFF00FE#64, .tsetbit (byteField p 8) (bitField p 0))
  | 0x41 => some (0xFFFFFFFFFFFFFF00#64, .tseton (byteField p 0))
  | 0x42 => some (0xFFFFFFFFFFFFFF00#64, .tsetoff (byteField p 0))
  | 0x43 => some (0#64, .tsetall p)
  | 0x44 => some (0xFFFFFFFFFFFFFFFF#64, .tcommit)
  | 0x45 => some (0xFFFFFFFFFFFFFFFF#64, .treset)
  | 0x46 => some (0xFFFFFFFFFFFFFFFF#64, .tdiff)
  | 0x47 => some (0xFFFFFFFFFFFFFFFF#64, .tstr)
  | 0x48 => some (0xFFFFFFFFFFFFFFFF#64, .tchg)
  | _ => none

/-- R48: look up the opcode, check the reserved bits, extract the operands. -/
def decode (w : OpWord) : Except Illegal Instr :=
  match opcodeMap (opcodeOf w).toNat (operandOf w) with
  | none => .error .reservedOpcode
  | some (reserved, i) => if operandOf w &&& reserved = 0#64 then .ok i else .error .reservedBit

/-- The instruction that the decoder reads from a word whose bits are `w`, bit 0 the least significant bit of the 72-bit
word, as spec/opcode_table.json numbers them (log 4). Bits at and above `nbits` are 0. -/
def decodeTableWord (nbits w : Nat) : Option Instr :=
  match decode (BitVec.ofNat 72 (w % 2 ^ nbits)) with
  | .ok i => some i
  | .error _ => none

/-! The encoder, from the operand positions of R50. -/

/-- `{OPC, P}` (R45). -/
def wordOf (opc : Byte) (p : Operand) : OpWord := opc ++ p

/-- One operand of 8 bits at `P[7:0]`. -/
def oneByte (b : Byte) : Operand := 0#56 ++ b

/-- FSET: `f` at `P[15:8]`, `v` at `P[7:0]`. -/
def fieldAndByte (f v : Byte) : Operand := 0#48 ++ f ++ v

/-- SETCMD: `dlc` at `P[23:16]`, `r` at `P[8]`, `code` at `P[7:0]`. -/
def commandOperand (code : Byte) (r : Bool) (dlc : Byte) : Operand := 0#40 ++ dlc ++ 0#7 ++ BitVec.ofBool r ++ code

/-- SETHASH: `h` at `P[15:0]`. -/
def oneHalf (h : Half) : Operand := 0#48 ++ h

/-- SETDEV: `dev` at `P[31:16]`, `sub` at `P[15:0]`. -/
def twoHalves (dev sub : Half) : Operand := 0#32 ++ dev ++ sub

/-- SETTRK: `dev` at `P[47:32]`, `sub` at `P[31:16]`, `state` at `P[15:8]`, `recent` at `P[7:0]`. -/
def trackOperand (dev sub : Half) (state recent : Byte) : Operand := 0#16 ++ dev ++ sub ++ state ++ recent

/-- TSETBIT: `n` at `P[15:8]`, `v` at `P[0]`. -/
def channelAndBit (n : Byte) (v : Bool) : Operand := 0#48 ++ n ++ 0#7 ++ BitVec.ofBool v

/-- The word of an operation; every reserved bit is 0 (R49, R50). -/
def encode : Instr → OpWord
  | .fclr => wordOf 0x01 0
  | .fload => wordOf 0x02 0
  | .fget f => wordOf 0x03 (oneByte f)
  | .fset f v => wordOf 0x04 (fieldAndByte f v)
  | .fread => wordOf 0x05 0
  | .rxput b => wordOf 0x06 (oneByte b)
  | .rxclr => wordOf 0x07 0
  | .setprio p => wordOf 0x10 (oneByte p)
  | .setdlc n => wordOf 0x11 (oneByte n)
  | .setcmd code r dlc => wordOf 0x12 (commandOperand code r dlc)
  | .sethash h => wordOf 0x13 (oneHalf h)
  | .setdev dev sub => wordOf 0x14 (twoHalves dev sub)
  | .settrk dev sub state recent => wordOf 0x15 (trackOperand dev sub state recent)
  | .togtrk => wordOf 0x16 0
  | .togtrkv new => wordOf 0x17 (oneByte new)
  | .fresp => wordOf 0x18 0
  | .hash id => wordOf 0x20 id
  | .decode => wordOf 0x30 0
  | .tsetbit n v => wordOf 0x40 (channelAndBit n v)
  | .tseton n => wordOf 0x41 (oneByte n)
  | .tsetoff n => wordOf 0x42 (oneByte n)
  | .tsetall bits => wordOf 0x43 bits
  | .tcommit => wordOf 0x44 0
  | .treset => wordOf 0x45 0
  | .tdiff => wordOf 0x46 0
  | .tstr => wordOf 0x47 0
  | .tchg => wordOf 0x48 0

/-! The opcode map as the table of match and mask (R50), kept apart from the decoder so that the two can be compared. -/

/-- One row of the opcode table: a word belongs to it when `OW & mask = pattern`. -/
structure OpcodeRow where
  mnemonic : String
  pattern : OpWord
  mask : OpWord
  deriving DecidableEq, Repr

/-- R50: `match` is the value of `OW & mask`. -/
def OpcodeRow.admits (row : OpcodeRow) (w : OpWord) : Bool := w &&& row.mask = row.pattern

/-- The rows of the frame unit. -/
def frameRows : List OpcodeRow :=
  [⟨"FCLR", 0x010000000000000000, 0xFFFFFFFFFFFFFFFFFF⟩,
   ⟨"FLOAD", 0x020000000000000000, 0xFFFFFFFFFFFFFFFFFF⟩,
   ⟨"FGET", 0x030000000000000000, 0xFFFFFFFFFFFFFFFF00⟩,
   ⟨"FSET", 0x040000000000000000, 0xFFFFFFFFFFFFFF0000⟩,
   ⟨"FREAD", 0x050000000000000000, 0xFFFFFFFFFFFFFFFFFF⟩,
   ⟨"RXPUT", 0x060000000000000000, 0xFFFFFFFFFFFFFFFF00⟩,
   ⟨"RXCLR", 0x070000000000000000, 0xFFFFFFFFFFFFFFFFFF⟩]

/-- The rows of the builder unit. -/
def builderRows : List OpcodeRow :=
  [⟨"SETPRIO", 0x100000000000000000, 0xFFFFFFFFFFFFFFFF00⟩,
   ⟨"SETDLC", 0x110000000000000000, 0xFFFFFFFFFFFFFFFF00⟩,
   ⟨"SETCMD", 0x120000000000000000, 0xFFFFFFFFFFFF00FE00⟩,
   ⟨"SETHASH", 0x130000000000000000, 0xFFFFFFFFFFFFFF0000⟩,
   ⟨"SETDEV", 0x140000000000000000, 0xFFFFFFFFFF00000000⟩,
   ⟨"SETTRK", 0x150000000000000000, 0xFFFFFF000000000000⟩,
   ⟨"TOGTRK", 0x160000000000000000, 0xFFFFFFFFFFFFFFFFFF⟩,
   ⟨"TOGTRKV", 0x170000000000000000, 0xFFFFFFFFFFFFFFFF00⟩,
   ⟨"FRESP", 0x180000000000000000, 0xFFFFFFFFFFFFFFFFFF⟩]

/-- The rows of the hash, decode and tracker units. -/
def otherRows : List OpcodeRow :=
  [⟨"HASH", 0x200000000000000000, 0xFF0000000000000000⟩,
   ⟨"DECODE", 0x300000000000000000, 0xFFFFFFFFFFFFFFFFFF⟩,
   ⟨"TSETBIT", 0x400000000000000000, 0xFFFFFFFFFFFFFF00FE⟩,
   ⟨"TSETON", 0x410000000000000000, 0xFFFFFFFFFFFFFFFF00⟩,
   ⟨"TSETOFF", 0x420000000000000000, 0xFFFFFFFFFFFFFFFF00⟩,
   ⟨"TSETALL", 0x430000000000000000, 0xFF0000000000000000⟩,
   ⟨"TCOMMIT", 0x440000000000000000, 0xFFFFFFFFFFFFFFFFFF⟩,
   ⟨"TRESET", 0x450000000000000000, 0xFFFFFFFFFFFFFFFFFF⟩,
   ⟨"TDIFF", 0x460000000000000000, 0xFFFFFFFFFFFFFFFFFF⟩,
   ⟨"TSTR", 0x470000000000000000, 0xFFFFFFFFFFFFFFFFFF⟩,
   ⟨"TCHG", 0x480000000000000000, 0xFFFFFFFFFFFFFFFFFF⟩]

/-- The 27 rows of spec/opcode_table.json. -/
def opcodeTable : List OpcodeRow := frameRows ++ builderRows ++ otherRows

/-- The mnemonic of an operation, as the table spells it. -/
def Instr.mnemonic : Instr → String
  | .fclr => "FCLR"
  | .fload => "FLOAD"
  | .fget _ => "FGET"
  | .fset _ _ => "FSET"
  | .fread => "FREAD"
  | .rxput _ => "RXPUT"
  | .rxclr => "RXCLR"
  | .setprio _ => "SETPRIO"
  | .setdlc _ => "SETDLC"
  | .setcmd _ _ _ => "SETCMD"
  | .sethash _ => "SETHASH"
  | .setdev _ _ => "SETDEV"
  | .settrk _ _ _ _ => "SETTRK"
  | .togtrk => "TOGTRK"
  | .togtrkv _ => "TOGTRKV"
  | .fresp => "FRESP"
  | .hash _ => "HASH"
  | .decode => "DECODE"
  | .tsetbit _ _ => "TSETBIT"
  | .tseton _ => "TSETON"
  | .tsetoff _ => "TSETOFF"
  | .tsetall _ => "TSETALL"
  | .tcommit => "TCOMMIT"
  | .treset => "TRESET"
  | .tdiff => "TDIFF"
  | .tstr => "TSTR"
  | .tchg => "TCHG"

/-- R36: a word written as bytes, the most significant byte (the opcode) first. -/
def bytesOfWord (w : OpWord) : Vector Byte 9 := Vector.ofFn fun j => w.extractLsb' (8 * (8 - j.val)) 8

/-- R36 read back: nine bytes, the opcode first. -/
def wordOfBytes (b : Vector Byte 9) : OpWord :=
  b[0] ++ b[1] ++ b[2] ++ b[3] ++ b[4] ++ b[5] ++ b[6] ++ b[7] ++ b[8]

end Sys2Proof
end

