-- ==== Sys2Proof/Config.lean ====
section
/-! DEFINITION. What one instance of the block fixes (00_scope.md R3), and the pieces of the host's text report that
45_report_text.md leaves unfixed: each of those is an opaque constant, so no claim can rest on its value (log 8). -/

namespace Sys2Proof.Config

/-- "Created with a configurable channel count (default 16)" (R3). -/
def defaultNch : Nat := 16

/-- The least channel count (R3, decision D5). -/
def minNch : Nat := 1

/-- The greatest channel count (R3, decision D5). -/
def maxNch : Nat := 64

/-- `EOL`, the parameter of the rendering that the spec leaves open (45_report_text.md R160, D25). -/
opaque eol : String

/-- What stands before the value on the message-type, command and DLC lines, by item kind (R162, R163, R166: not given). -/
opaque headerLabel : Nat → String

/-- The characters of a body line's label, before its padding, that the source does not quote, by item kind (R162, R167
to R169, R171, R172); `bodyLabelLength` says how many of them stand. -/
opaque bodyLabelChars : Nat → Vector Char 15

/-- The length of such a label, at most the 15 of its field (R162). -/
opaque bodyLabelLength : Nat → Fin 16

/-- The character that pads a label to 15 characters (R162: not stated). -/
opaque padChar : Char

/-- Whether a label is padded on the right (R162: not stated). -/
opaque padOnRight : Bool

/-- What stands before the digits of a hexadecimal number, by item kind (R164, R169: not given). -/
opaque hexPrefix : Nat → String

/-- What stands after the digits of a hexadecimal number, by item kind (R164, R169: not given). -/
opaque hexSuffix : Nat → String

/-- Whether the digits above 9 are upper case, by item kind (R164, R167, R169: not given). -/
opaque hexUpper : Nat → Bool

/-- The least number of digits of a hexadecimal number, by item kind (R164, R169: not given). -/
opaque hexWidth : Nat → Nat

/-- A byte value whose base and spelling the source does not give, by item kind (R166, R168, R169, R170, R172). -/
opaque byteText : Nat → Byte → String

/-- What separates the bytes of a device-id dump (R167: not given). -/
opaque devIdSeparator : String

/-- Whether the separator stands after the last byte of a device-id dump too, as it does on the first line (R167: not
given). -/
opaque devIdTrailing : Bool

/-- Two bytes shown on one line, by item kind; the way is not given (R168, R170). -/
opaque pairText : Nat → Byte → Byte → String

/-- Whether the hexadecimal value follows the name of all three protocol classes, or of MFX-MainRail alone (R169;
91_not_in_source.md N14: not settled). -/
opaque protocolHexForAll : Bool

/-- What follows "unknown subcommand" or "unknown datalength for this subcommand", by item kind, if the line shows the
value at all (R168, R169; 91_not_in_source.md N17). -/
opaque unknownSuffix : Nat → Byte → String

end Sys2Proof.Config
end

