-- ==== Sys2Proof/Machine/Response.lean ====
section
/-! DEFINITION. What the block returns: status, result, and the decoder's report as typed items (30_encoding.md R47,
43_decoder.md R101 to R112, 60_exceptions.md R176). Types only; their functions are in Operands.lean and Decoder.lean. -/

namespace Sys2Proof.Machine

/-- The 13 frame registers `FR[0]` to `FR[12]` in index order, which is the wire order (R10, R35). -/
abbrev Frame := Vector Byte 13

/-- The four error kinds (R176). -/
inductive ErrorKind where
  /-- The staged buffer is not exactly 13 bytes; raised by FLOAD (R66). -/
  | invalidFrameLength
  /-- The field index is above 12; raised by FGET and FSET (R67, R68). -/
  | unknownField
  /-- The channel is 0 or above NCH; raised by TSETBIT, TSETON and TSETOFF (R144). -/
  | channelRange
  /-- A reserved opcode or a reserved bit of `P`; raised by the decoding of any word (R49, R51). -/
  | illegalOperation
  deriving DecidableEq, Repr

/-- The recognised command codes, a closed enumeration with an explicit default (R104, R128). -/
inductive CommandClass where
  | systemCommand
  | mfxDiscovery
  | mfxBind
  | mfxVerify
  | locSpeed
  | locDirection
  | locFunction
  | locReadConfig
  | locWriteConfig
  | equipmentSwitch
  | trackState
  | memberPing
  | statusdataConfig
  | unknown
  deriving DecidableEq, Repr

/-- The recognised subcommands of the System command (R109). -/
inductive Subcommand where
  | stopp
  | go
  | halt
  | locEmergencyStop
  | locEndCycle
  | mfxNewNotifyingCounter
  | systemOverload
  | systemStatus
  /-- Named "System-???" by the source, which does not know what it is. -/
  | systemQuestion
  deriving DecidableEq, Repr

/-- The protocol classes (R112). -/
inductive ProtocolClass where
  | mfxProgRail
  | mm2
  | mfxMainRail
  deriving DecidableEq, Repr

/-- One element of a report: a kind and its payload (R102), in the order of the kind numbers 0 to 21. -/
inductive Item where
  | raw (fr : Frame)
  | msgType (r : Bool)
  | command (code : Byte) (cls : CommandClass)
  | dlc (n : Byte)
  | devId (d0 d1 d2 d3 : Byte)
  | subCmd (sub : Subcommand)
  | unkSub (d4 : Byte)
  | counter (d5 d6 : Byte)
  | channel (d5 : Byte)
  | value (d5 : Byte)
  | protocol (cls : ProtocolClass) (val : Byte)
  | sigQ (d5 : Byte)
  | unkDlc (n : Byte)
  | position (d4 : Byte)
  | current (d5 : Byte)
  | swTime (d6 d7 : Byte)
  | devNum (n : Half)
  | contact (n : Half)
  | stRecent (d4 : Byte)
  | state (d5 : Byte)
  | swVer (d4 d5 : Byte)
  | dbVer (d6 d7 : Byte)
  deriving DecidableEq, Repr

/-- A triple of TDIFF: channel number, current value, previous value (R148). -/
structure ChannelChange where
  channel : Byte
  current : Bool
  previous : Bool
  deriving DecidableEq, Repr

/-- The result `RES` of an operation that was performed (last column of R50). -/
inductive Result where
  | none
  | byte (b : Byte)
  | frame (fr : Frame)
  | hash (h : Half)
  | report (items : List Item)
  | changes (l : List ChannelChange)
  | chars (l : List Char)
  | bit (b : Bool)
  deriving DecidableEq, Repr

/-- The response `(ST, RES)` (R47): status 0 with a result, or an error kind with none. -/
inductive Response where
  | ok (res : Result)
  | error (e : ErrorKind)
  deriving DecidableEq, Repr

/-- The two byte-addressed spaces (20_memory.md R30). -/
inductive Space where
  | fr
  | rxbuf
  deriving DecidableEq, Repr

end Sys2Proof.Machine
end

