-- ==== Sys2Proof/Machine/State.lean ====
section
/-! DEFINITION. The state of the block (10_state.md) and its reset value (70_reset_and_hazards.md R190). -/

namespace Sys2Proof.Machine

/-- All the state of the block, with the host's port beside it. -/
structure State where
  /-- `FR[0..12]` (10_state.md R10). -/
  fr : Vector Byte 13
  /-- `RXBUF[0..12]` (R14). -/
  rxbuf : Vector Byte 13
  /-- `RXLEN`, the saturating count of staged bytes (R15). -/
  rxlen : BitVec 8
  /-- `CUR`: channel `k` at bit `k - 1` (R16, R17; log 14). -/
  cur : Lanes
  /-- `PRV`: channel `k` at bit `k - 1` (R16, R17; log 14). -/
  prv : Lanes
  /-- `NCH`, the configuration argument of this instance; no operation writes it (00_scope.md R3; log 1). -/
  nch : Nat
  /-- The host's operation words not yet performed, next one first (R7, R20; log 4). -/
  port : List OpWord
  /-- The response of the operation performed last; none before the first one (R47; log 6). -/
  resp : Option Response
  deriving DecidableEq, Repr

/-- The block has no stop: every error ends one operation with a status and the block goes on (60_exceptions.md R178,
R179; log 10). So no fault exists, nobody raises one, and there is nothing safe or unsafe about one. -/
inductive Fault where
  deriving DecidableEq, Repr

/-- Reasons to give no meaning to an operation. -/
inductive Refusal where
  /-- An operation without a meaning in this model; raised by exec's arms alone, and no arm does (safe). -/
  | notModelled (mnemonic : String)
  deriving DecidableEq, Repr

/-- The reset state of an instance with `nch` channels (R190): `FR`, `RXLEN`, `CUR` and `PRV` as the spec states;
`RXBUF`, which the spec leaves unspecified, zero (DESIGN CHOICE, log 2); nothing presented, nothing answered (log 4, 6). -/
def State.resetFor (nch : Nat) : State where
  fr := Vector.replicate 13 0
  rxbuf := Vector.replicate 13 0
  rxlen := 0
  cur := 0
  prv := 0
  nch := nch
  port := []
  resp := none

/-- The machine right after reset, with the default channel count of 16 (R3, R190). -/
def State.reset : State := State.resetFor Config.defaultNch

end Sys2Proof.Machine
end

