-- ==== Sys2Proof/Machine/Operands.lean ====
section
/-! DEFINITION. Operand forms: field index, channel number, the split of 16-bit operands, one-bit operands
(30_encoding.md R46, R53, R59; 20_memory.md R33), and the status codes (60_exceptions.md R176). -/

namespace Sys2Proof.Machine

/-- The index of an operand or register number inside a 13-byte space; none outside 0..12 (R32). -/
def spaceIndex (a : Nat) : Option (Fin 13) := if h : a < 13 then some ⟨a, h⟩ else none

/-- The field operand `f` of FGET and FSET: 0..12 name a register, 13..255 none (R53, R67, R68). -/
def fieldIndex (f : Byte) : Option (Fin 13) := spaceIndex f.toNat

/-- The channel operand `n` of TSETBIT, TSETON and TSETOFF: a channel for 1..NCH, none otherwise (R53, R144). -/
def channelOf (nch : Nat) (n : Byte) : Option Nat :=
  if n.toNat = 0 ∨ nch < n.toNat then none else some n.toNat

/-- The more significant byte of a 16-bit operand, which goes to the lower index (R33). -/
def hiByte (h : Half) : Byte := h.extractLsb' 8 8

/-- The less significant byte of a 16-bit operand (R33). -/
def loByte (h : Half) : Byte := h.extractLsb' 0 8

/-- Two bytes of the frame as a 16-bit number, the more significant one first (R33). -/
def halfOf (hi lo : Byte) : Half := hi ++ lo

/-- A one-bit operand as a number, for `code + r` (R87). -/
def bitValue (r : Bool) : Nat := if r then 1 else 0

/-- The status code of an error kind (R176). -/
def ErrorKind.code : ErrorKind → BitVec 8
  | .invalidFrameLength => 1
  | .unknownField => 2
  | .channelRange => 3
  | .illegalOperation => 4

/-- `ST` of a response: 0 is OK (R47, R176). -/
def Response.st : Response → BitVec 8
  | .ok _ => 0
  | .error e => e.code

/-- `RES` of a response: absent when `ST` is not 0 (R47). -/
def Response.res : Response → Option Result
  | .ok r => some r
  | .error _ => none

/-- The characters of TSTR as the bytes of a port, `'0'` 0x30 and `'1'` 0x31 (R149, general knowledge of the spec, G1;
PRESUMED, log 7). -/
def charBytes (l : List Char) : List Byte := l.map fun c => BitVec.ofNat 8 c.toNat

end Sys2Proof.Machine
end

