-- ==== Sys2Proof/Machine/Ops.lean ====
section
/-! DEFINITION. The named operations over the registers, the host port, and the end of an operation: `respond` for OK,
`raise` for every error (60_exceptions.md R178). -/

namespace Sys2Proof.Machine

/-- The outcome of an operation of the block. -/
abbrev Out := Host.Outcome State Fault Refusal

/-! ## The response -/

/-- `return v; ST <- OK` (R47). -/
def State.respond (s : State) (r : Result) : State := { s with resp := some (.ok r) }

/-- `raise E`: the operation ends with the code of `E`, with no result and with no change of architectural state
(60_exceptions.md R178, R179). -/
def State.raise (s : State) (e : ErrorKind) : State := { s with resp := some (.error e) }

/-- The operation ends with OK. -/
def ok (s : State) (r : Result) : Out := .next (s.respond r)

/-- The operation ends with an error; the block goes on with the next word (R179). -/
def fail (s : State) (e : ErrorKind) : Out := .next (s.raise e)

/-- No word is presented: nothing changes (00_scope.md R5; log 5). -/
def idle (s : State) : Out := .next s

/-! ## The frame registers -/

/-- `FR[i]` (R10). -/
def State.readFr (s : State) (i : Fin 13) : Byte := s.fr[i]

/-- `FR[i] <- v` (R10). -/
def State.writeFr (s : State) (i : Fin 13) (v : Byte) : State := { s with fr := s.fr.set i.val v i.isLt }

/-- All 13 frame registers at once: creation of a frame (R24). -/
def State.loadFrame (s : State) (fr : Frame) : State := { s with fr := fr }

/-- The frame of a fresh creation, "zero-filled" (R65). -/
def zeroFrame : Frame := Vector.replicate 13 0

/-- A 16-bit quantity into two registers, high byte first (20_memory.md R33). -/
def State.writeHalf (s : State) (hi lo : Fin 13) (h : Half) : State :=
  (s.writeFr hi (hiByte h)).writeFr lo (loByte h)

/-! ## The staging buffer -/

/-- `RXLEN <- v` (R15). -/
def State.setRxlen (s : State) (v : BitVec 8) : State := { s with rxlen := v }

/-- `RXLEN <- min(RXLEN + 1, 255)` (R70). -/
def rxlenNext (n : BitVec 8) : BitVec 8 := BitVec.ofNat 8 (min (n.toNat + 1) 255)

/-- `if RXLEN < 13: RXBUF[RXLEN] <- b`, then the count (R70). -/
def State.stage (s : State) (b : Byte) : State :=
  match spaceIndex s.rxlen.toNat with
  | some i => { s with rxbuf := s.rxbuf.set i.val b i.isLt, rxlen := rxlenNext s.rxlen }
  | none => { s with rxlen := rxlenNext s.rxlen }

/-! ## The two byte spaces as memory (20_memory.md R30) -/

/-- The bytes of a space. -/
def State.space (s : State) : Space → Vector Byte 13
  | .fr => s.fr
  | .rxbuf => s.rxbuf

/-- `MemRead(space, a, 1)`; none outside 0..12 (R30, R32). -/
def State.memRead (s : State) (sp : Space) (a : Nat) : Option Byte :=
  (spaceIndex a).map fun i => (s.space sp)[i]

/-- `MemWrite(space, a, 1, v)`; none outside 0..12 (R30, R32). -/
def State.memWrite (s : State) (sp : Space) (a : Nat) (v : Byte) : Option State :=
  (spaceIndex a).map fun i =>
    match sp with
    | .fr => { s with fr := s.fr.set i.val v i.isLt }
    | .rxbuf => { s with rxbuf := s.rxbuf.set i.val v i.isLt }

/-! ## The tracker registers -/

/-- Channel `k` of a tracker register with `nch` channels; position 0 and positions above NCH have no storage and read as
0 (10_state.md R17). -/
def laneOf (nch : Nat) (r : Lanes) (k : Nat) : Bool := decide (1 ≤ k ∧ k ≤ nch) && r.getLsbD (k - 1)

/-- `CUR[k]` (R16). -/
def State.curChan (s : State) (k : Nat) : Bool := laneOf s.nch s.cur k

/-- `PRV[k]` (R16). -/
def State.prvChan (s : State) (k : Nat) : Bool := laneOf s.nch s.prv k

/-- A register with channel `k` set to `v`; `k` is at bit `k - 1` (R17). -/
def setLane (r : Lanes) (k : Nat) (v : Bool) : Lanes :=
  if v then r ||| (1#64 <<< (k - 1)) else r &&& ~~~(1#64 <<< (k - 1))

/-- The bits of channels 1..NCH (R17, R145). -/
def laneMask (nch : Nat) : Lanes := BitVec.ofNat 64 (2 ^ nch - 1)

/-- `CUR <- r`. -/
def State.setCur (s : State) (r : Lanes) : State := { s with cur := r }

/-- `PRV <- r`. -/
def State.setPrv (s : State) (r : Lanes) : State := { s with prv := r }

/-- The channels 1..NCH in ascending order (R148, R149). -/
def State.channels (s : State) : List Nat := (List.range s.nch).map (· + 1)

/-! ## The host port -/

/-- The next word of the host, and the state with that word taken (00_scope.md R5, R7). -/
def fetch (s : State) : Option (OpWord × State) :=
  match s.port with
  | [] => none
  | w :: rest => some (w, { s with port := rest })

/-- The host presents further words, behind those it has presented before (R40). -/
def State.present (s : State) (ws : List OpWord) : State := { s with port := s.port ++ ws }

/-- The host presents a word ahead of all others. -/
def State.presentFirst (s : State) (w : OpWord) : State := { s with port := w :: s.port }

end Sys2Proof.Machine
end

