-- ==== Sys2Proof/Machine/Flags.lean ====
section
/-! DEFINITION. The flag CHANGED (10_state.md R18, 44_tracker.md R140), and the two fields of `cmdAndResp` (10_state.md
R12). -/

namespace Sys2Proof.Machine

/-- `CHANGED = 1` if some `k` in 1..NCH has `CUR[k] != PRV[k]`; derived, never stored (R18, R140). -/
def State.changed (s : State) : Bool := s.channels.any fun k => s.curChan k != s.prvChan k

/-- The response flag, bit 0 of `cmdAndResp`: 0 command, 1 response (R12). -/
def respFlag (fr : Frame) : Bool := fr[1].getLsbD 0

/-- The command code `FR[1] & 0xFE` (R12, R103). -/
def commandCode (fr : Frame) : Byte := fr[1] &&& 0xFE

/-- The command byte with its response flag forced to 1 (R94). -/
def forceResp (b : Byte) : Byte := b ||| 0x01

end Sys2Proof.Machine
end

