-- ==== Sys2Proof/Machine/Builder.lean ====
section
/-! DEFINITION. The BUILDER unit: SETPRIO, SETDLC, SETCMD, SETHASH, SETDEV, SETTRK, TOGTRK, TOGTRKV, FRESP
(42_builder.md). Register numbers: prio 0, cmdAndResp 1, hashH 2, hashL 3, dlc 4, d0 to d7 5 to 12 (10_state.md R11). -/

namespace Sys2Proof.Machine

/-- SETPRIO (R85). -/
def execSetprio (p : Byte) (s : State) : Out := ok (s.writeFr 0 p) .none

/-- SETDLC (R86): any byte is stored unchanged. -/
def execSetdlc (n : Byte) (s : State) : Out := ok (s.writeFr 4 n) .none

/-- SETCMD (R87, R88): `FR[1] <- (code + r) mod 256`, for every code. -/
def execSetcmd (code : Byte) (r : Bool) (dlc : Byte) (s : State) : Out :=
  ok ((s.writeFr 1 (BitVec.ofNat 8 (code.toNat + bitValue r))).writeFr 4 dlc) .none

/-- SETHASH (R89). -/
def execSethash (h : Half) (s : State) : Out := ok (s.writeHalf 2 3 h) .none

/-- The device and sub-device address into `d0..d3` (R90), shared by SETDEV and SETTRK. -/
def State.writeDevice (s : State) (dev sub : Half) : State := (s.writeHalf 5 6 dev).writeHalf 7 8 sub

/-- SETDEV (R90). -/
def execSetdev (dev sub : Half) (s : State) : Out := ok (s.writeDevice dev sub) .none

/-- SETTRK (R91): `recent` goes to `d4`, `state` to `d5`. -/
def execSettrk (dev sub : Half) (state recent : Byte) (s : State) : Out :=
  ok (((s.writeDevice dev sub).writeFr 9 recent).writeFr 10 state) .none

/-- The old `d5` into `d4`, then a new `d5` (R92, R93), shared by TOGTRK and TOGTRKV. -/
def State.shiftState (s : State) (new : Byte) : State := (s.writeFr 9 (s.readFr 10)).writeFr 10 new

/-- TOGTRK (R92): only bit 0 of `d5` flips. -/
def execTogtrk (s : State) : Out := ok (s.shiftState (s.readFr 10 ^^^ 0x01)) .none

/-- TOGTRKV (R93). -/
def execTogtrkv (new : Byte) (s : State) : Out := ok (s.shiftState new) .none

/-- The response variant of a frame: byte 1 with bit 0 forced to 1 (R94). -/
def responseFrame (fr : Frame) : Frame := fr.set 1 (forceResp fr[1])

/-- FRESP (R94): a read-out, `FR` is not written. -/
def execFresp (s : State) : Out := ok s (.frame (responseFrame s.fr))

end Sys2Proof.Machine
end

