-- ==== Sys2Proof/Machine/Decoder.lean ====
section
/-! DEFINITION. The DECODE unit (43_decoder.md): the two-level table look-up, the report as a list of items (R100 to
R122), and the same output as a valid mask with payload wires (R127). -/

namespace Sys2Proof.Machine

/-- Data byte `dk`, `FR[5+k]` (10_state.md R11). -/
def dataByte (fr : Frame) (k : Fin 8) : Byte := fr[5 + k.val]

/-! ## First level: the command table (R104) -/

/-- The class of a command code; the codes are decimal (R104). -/
def commandClass (code : Byte) : CommandClass :=
  match code.toNat with
  | 0 => .systemCommand
  | 2 => .mfxDiscovery
  | 4 => .mfxBind
  | 6 => .mfxVerify
  | 8 => .locSpeed
  | 10 => .locDirection
  | 12 => .locFunction
  | 14 => .locReadConfig
  | 16 => .locWriteConfig
  | 22 => .equipmentSwitch
  | 34 => .trackState
  | 48 => .memberPing
  | 58 => .statusdataConfig
  | _ => .unknown

/-- The class index `cid` (R104). -/
def CommandClass.cid : CommandClass → BitVec 4
  | .systemCommand => 0
  | .mfxDiscovery => 1
  | .mfxBind => 2
  | .mfxVerify => 3
  | .locSpeed => 4
  | .locDirection => 5
  | .locFunction => 6
  | .locReadConfig => 7
  | .locWriteConfig => 8
  | .equipmentSwitch => 9
  | .trackState => 10
  | .memberPing => 11
  | .statusdataConfig => 12
  | .unknown => 15

/-! ## Second level: subcommand, data length, protocol (R109, R111, R112) -/

/-- The subcommand that `d4` names (R109). -/
def subcommandOf (d4 : Byte) : Option Subcommand :=
  match d4.toNat with
  | 0 => some .stopp
  | 1 => some .go
  | 2 => some .halt
  | 3 => some .locEmergencyStop
  | 4 => some .locEndCycle
  | 9 => some .mfxNewNotifyingCounter
  | 10 => some .systemOverload
  | 11 => some .systemStatus
  | 48 => some .systemQuestion
  | _ => none

/-- The subcommand index `sid` (R109). -/
def Subcommand.sid : Subcommand → BitVec 4
  | .stopp => 0
  | .go => 1
  | .halt => 2
  | .locEmergencyStop => 3
  | .locEndCycle => 4
  | .mfxNewNotifyingCounter => 5
  | .systemOverload => 6
  | .systemStatus => 7
  | .systemQuestion => 8

/-- Protocol classification of a byte; the comparison is unsigned (R112). -/
def protocolOf (v : Byte) : ProtocolClass :=
  if v.toNat < 0x21 then .mfxProgRail else if v.toNat = 0x21 then .mm2 else .mfxMainRail

/-- The class number `pclass` (R112). -/
def ProtocolClass.pclass : ProtocolClass → BitVec 2
  | .mfxProgRail => 0
  | .mm2 => 1
  | .mfxMainRail => 2

/-! ## The report -/

/-- The kind number of an item (R102). -/
def Item.kind : Item → Nat
  | .raw _ => 0
  | .msgType _ => 1
  | .command _ _ => 2
  | .dlc _ => 3
  | .devId _ _ _ _ => 4
  | .subCmd _ => 5
  | .unkSub _ => 6
  | .counter _ _ => 7
  | .channel _ => 8
  | .value _ => 9
  | .protocol _ _ => 10
  | .sigQ _ => 11
  | .unkDlc _ => 12
  | .position _ => 13
  | .current _ => 14
  | .swTime _ _ => 15
  | .devNum _ => 16
  | .contact _ => 17
  | .stRecent _ => 18
  | .state _ => 19
  | .swVer _ _ => 20
  | .dbVer _ _ => 21

/-- The DEVID item: `d0..d3` as four bytes (R106). -/
def devIdItem (fr : Frame) : Item := .devId (dataByte fr 0) (dataByte fr 1) (dataByte fr 2) (dataByte fr 3)

/-- The PROTOCOL item of a byte (R112). -/
def protocolItem (v : Byte) : Item := .protocol (protocolOf v) v

/-- The extra items of a subcommand (R109). -/
def subcommandExtra (fr : Frame) : Subcommand → List Item
  | .stopp => []
  | .go => []
  | .halt => []
  | .locEmergencyStop => []
  | .locEndCycle => []
  | .mfxNewNotifyingCounter => [.counter (dataByte fr 5) (dataByte fr 6)]
  | .systemOverload => [.channel (dataByte fr 5)]
  | .systemStatus => [.channel (dataByte fr 5)]
  | .systemQuestion => [.value (dataByte fr 5)]

/-- Code 0, System command: second level on `d4` (R108, R110). -/
def systemBody (fr : Frame) : List Item :=
  match subcommandOf (dataByte fr 4) with
  | some sub => [devIdItem fr, .subCmd sub] ++ subcommandExtra fr sub
  | none => [devIdItem fr, .unkSub (dataByte fr 4)]

/-- Code 2, MFX Discovery: second level on the whole byte `FR[4]` (R111). -/
def discoveryBody (fr : Frame) : List Item :=
  match fr[4].toNat with
  | 1 => [protocolItem (dataByte fr 0)]
  | 5 => [devIdItem fr, protocolItem (dataByte fr 4)]
  | 6 => [devIdItem fr, protocolItem (dataByte fr 4), .sigQ (dataByte fr 5)]
  | _ => [.unkDlc fr[4]]

/-- Code 22, Equipment switch (R119). -/
def equipmentBody (fr : Frame) : List Item :=
  [devIdItem fr, .position (dataByte fr 4), .current (dataByte fr 5)] ++
    (if fr[4] = 8 then [.swTime (dataByte fr 6) (dataByte fr 7)] else [])

/-- Code 34, Track state: the same bytes as DEVID and as two big-endian numbers (R120). -/
def trackBody (fr : Frame) : List Item :=
  [devIdItem fr, .devNum (halfOf (dataByte fr 0) (dataByte fr 1)),
   .contact (halfOf (dataByte fr 2) (dataByte fr 3)), .stRecent (dataByte fr 4), .state (dataByte fr 5)]

/-- Code 48, Member ping: versions in a response only (R121). -/
def pingBody (fr : Frame) : List Item :=
  [devIdItem fr] ++
    (if respFlag fr then [.swVer (dataByte fr 4) (dataByte fr 5), .dbVer (dataByte fr 6) (dataByte fr 7)] else [])

/-- Code 58, Statusdata config: the device id for a data length of 5 or 6, otherwise empty (R122). -/
def statusdataBody (fr : Frame) : List Item :=
  if fr[4] = 5 ∨ fr[4] = 6 then [devIdItem fr] else []

/-- The body of a report by command class (R107); an unrecognised command has none (R105). -/
def reportBody (fr : Frame) : CommandClass → List Item
  | .systemCommand => systemBody fr
  | .mfxDiscovery => discoveryBody fr
  | .mfxBind => [devIdItem fr]
  | .mfxVerify => [devIdItem fr]
  | .locSpeed => [devIdItem fr]
  | .locDirection => [devIdItem fr]
  | .locFunction => [devIdItem fr]
  | .locReadConfig => [devIdItem fr]
  | .locWriteConfig => [devIdItem fr]
  | .equipmentSwitch => equipmentBody fr
  | .trackState => trackBody fr
  | .memberPing => pingBody fr
  | .statusdataConfig => statusdataBody fr
  | .unknown => []

/-- The four header items, always present (R100, R101). -/
def reportHeader (fr : Frame) : List Item :=
  [.raw fr, .msgType (respFlag fr), .command (commandCode fr) (commandClass (commandCode fr)), .dlc fr[4]]

/-- The report of a frame (R100). -/
def report (fr : Frame) : List Item :=
  reportHeader fr ++ reportBody fr (commandClass (commandCode fr))

/-- DECODE (R100, R124, R125): OK for every frame, and nothing is written. -/
def execDecode (s : State) : Out := ok s (.report (report s.fr))

/-! ## The same output as wires (R127) -/

/-- Whether kind `k` is present, from the command code, the data length, the response flag and `d4`. -/
def kindValid (fr : Frame) (k : Nat) : Bool :=
  let code := (commandCode fr).toNat
  let n := fr[4].toNat
  let d4 := (dataByte fr 4).toNat
  let known := commandClass (commandCode fr) != .unknown
  let subKnown := (subcommandOf (dataByte fr 4)).isSome
  match k with
  | 0 => true
  | 1 => true
  | 2 => true
  | 3 => true
  | 4 => known && ((code != 2 && code != 58) || n == 5 || n == 6)
  | 5 => code == 0 && subKnown
  | 6 => code == 0 && !subKnown
  | 7 => code == 0 && d4 == 9
  | 8 => code == 0 && (d4 == 10 || d4 == 11)
  | 9 => code == 0 && d4 == 48
  | 10 => code == 2 && (n == 1 || n == 5 || n == 6)
  | 11 => code == 2 && n == 6
  | 12 => code == 2 && !(n == 1 || n == 5 || n == 6)
  | 13 => code == 22
  | 14 => code == 22
  | 15 => code == 22 && n == 8
  | 16 => code == 34
  | 17 => code == 34
  | 18 => code == 34
  | 19 => code == 34
  | 20 => code == 48 && respFlag fr
  | 21 => code == 48 && respFlag fr
  | _ => false

/-- The 22-bit valid mask: bit `k` set when kind `k` is present (R127). -/
def validMask (fr : Frame) : BitVec 22 :=
  BitVec.ofNat 22 ((List.range 22).foldl (fun m k => m + if kindValid fr k then 2 ^ k else 0) 0)

/-- The payload wires of kind `k`: fixed slices of `FR`, but for the look-ups `cid`, `sid` and `pclass` (R127). -/
def kindPayload (fr : Frame) (k : Nat) : Option Item :=
  match k with
  | 0 => some (.raw fr)
  | 1 => some (.msgType (respFlag fr))
  | 2 => some (.command (commandCode fr) (commandClass (commandCode fr)))
  | 3 => some (.dlc fr[4])
  | 4 => some (devIdItem fr)
  | 5 => (subcommandOf (dataByte fr 4)).map .subCmd
  | 6 => some (.unkSub (dataByte fr 4))
  | 7 => some (.counter (dataByte fr 5) (dataByte fr 6))
  | 8 => some (.channel (dataByte fr 5))
  | 9 => some (.value (dataByte fr 5))
  | 10 => some (protocolItem (if fr[4] = 1 then dataByte fr 0 else dataByte fr 4))
  | 11 => some (.sigQ (dataByte fr 5))
  | 12 => some (.unkDlc fr[4])
  | 13 => some (.position (dataByte fr 4))
  | 14 => some (.current (dataByte fr 5))
  | 15 => some (.swTime (dataByte fr 6) (dataByte fr 7))
  | 16 => some (.devNum (halfOf (dataByte fr 0) (dataByte fr 1)))
  | 17 => some (.contact (halfOf (dataByte fr 2) (dataByte fr 3)))
  | 18 => some (.stRecent (dataByte fr 4))
  | 19 => some (.state (dataByte fr 5))
  | 20 => some (.swVer (dataByte fr 4) (dataByte fr 5))
  | 21 => some (.dbVer (dataByte fr 6) (dataByte fr 7))
  | _ => none

/-- The list recovered from mask and payloads: the present kinds in ascending kind number (R127). -/
def reportFromWires (mask : BitVec 22) (payload : Nat → Option Item) : List Item :=
  (List.range 22).filterMap fun k => if mask.getLsbD k then payload k else none

end Sys2Proof.Machine
end

