-- ==== Sys2Proof/Machine/FrameUnit.lean ====
section
/-! DEFINITION. The FRAME unit: FCLR, FLOAD, FGET, FSET, FREAD, RXPUT, RXCLR (40_frame.md). -/

namespace Sys2Proof.Machine

/-- FCLR (R65). -/
def execFclr (s : State) : Out := ok (s.loadFrame zeroFrame) .none

/-- FLOAD (R66): `RXLEN` is cleared in both outcomes. -/
def execFload (s : State) : Out :=
  if s.rxlen = 13 then ok ((s.loadFrame s.rxbuf).setRxlen 0) .none
  else fail (s.setRxlen 0) .invalidFrameLength

/-- FGET (R67). -/
def execFget (f : Byte) (s : State) : Out :=
  match fieldIndex f with
  | some i => ok s (.byte (s.readFr i))
  | none => fail s .unknownField

/-- FSET (R68). -/
def execFset (f v : Byte) (s : State) : Out :=
  match fieldIndex f with
  | some i => ok (s.writeFr i v) .none
  | none => fail s .unknownField

/-- FREAD (R69). -/
def execFread (s : State) : Out := ok s (.frame s.fr)

/-- RXPUT (R70). -/
def execRxput (b : Byte) (s : State) : Out := ok (s.stage b) .none

/-- RXCLR (R71): `RXBUF` keeps its bytes. -/
def execRxclr (s : State) : Out := ok (s.setRxlen 0) .none

end Sys2Proof.Machine
end

