-- ==== Sys2Proof/Machine/HashUnit.lean ====
section
/-! DEFINITION. The HASH unit (41_hash.md): the algorithm of R80 on naturals, narrowed at the end, and the same function as
wiring (R81). -/

namespace Sys2Proof.Machine

/-- Steps 1 to 3 of R80: the exclusive or of the two halves of the low 32 bits. -/
def hashFold (id : Operand) : Nat :=
  let v32 := id.toNat &&& 0xFFFFFFFF
  (v32 >>> 16) ^^^ (v32 &&& 0xFFFF)

/-- The 16-bit frame hash of an identifier (R80). -/
def addressHash (id : Operand) : Half :=
  let h := hashFold id
  BitVec.ofNat 16 ((((h <<< 3) &&& 0xFF00) ||| 0x0300) ||| (h &&& 0x7F))

/-- The same function bit by bit: `{h[12:7], 0b11, 0, h[6:0]}` (R81). -/
def addressHashWires (id : Operand) : Half :=
  let h : Half := id.extractLsb' 16 16 ^^^ id.extractLsb' 0 16
  h.extractLsb' 7 6 ++ 0b11#2 ++ 0#1 ++ h.extractLsb' 0 7

/-- HASH (R80): touches no state. -/
def execHash (id : Operand) (s : State) : Out := ok s (.hash (addressHash id))

end Sys2Proof.Machine
end

