-- ==== Sys2Proof/Machine/Tracker.lean ====
section
/-! DEFINITION. The TRACKER unit: TSETBIT, TSETON, TSETOFF, TSETALL, TCOMMIT, TRESET, TDIFF, TSTR, TCHG (44_tracker.md). -/

namespace Sys2Proof.Machine

/-- `CUR[n] <- v`, or `raise ChannelRange` for a channel outside 1..NCH (R141, R144), shared by the three set operations. -/
def setChannel (n : Byte) (v : Bool) (s : State) : Out :=
  match channelOf s.nch n with
  | some k => ok (s.setCur (setLane s.cur k v)) .none
  | none => fail s .channelRange

/-- TSETBIT (R141). -/
def execTsetbit (n : Byte) (v : Bool) (s : State) : Out := setChannel n v s

/-- TSETON (R142): "exactly the effect of `TSETBIT n, 1`". -/
def execTseton (n : Byte) (s : State) : Out := setChannel n true s

/-- TSETOFF (R143): "exactly the effect of `TSETBIT n, 0`". -/
def execTsetoff (n : Byte) (s : State) : Out := setChannel n false s

/-- TSETALL (R145): bit `k - 1` to channel `k`; bits at and above NCH are ignored. -/
def execTsetall (bits : Operand) (s : State) : Out := ok (s.setCur (bits &&& laneMask s.nch)) .none

/-- TCOMMIT (R146). -/
def execTcommit (s : State) : Out := ok (s.setPrv s.cur) .none

/-- TRESET (R147). -/
def execTreset (s : State) : Out := ok ((s.setCur 0).setPrv 0) .none

/-- The triples of the channels where `CUR` and `PRV` differ, ascending (R148). -/
def State.changes (s : State) : List ChannelChange :=
  s.channels.filterMap fun k =>
    if s.curChan k = s.prvChan k then none
    else some ⟨BitVec.ofNat 8 k, s.curChan k, s.prvChan k⟩

/-- TDIFF (R148). -/
def execTdiff (s : State) : Out := ok s (.changes s.changes)

/-- The live snapshot as characters, channel 1 first (R149). -/
def State.shortString (s : State) : List Char := s.channels.map fun k => if s.curChan k then '1' else '0'

/-- TSTR (R149). -/
def execTstr (s : State) : Out := ok s (.chars s.shortString)

/-- TCHG (R150). -/
def execTchg (s : State) : Out := ok s (.bit s.changed)

end Sys2Proof.Machine
end

