-- ==== Sys2Proof/Machine/Dispatch.lean ====
section
/-! DEFINITION. One arm for each operation: the call of its meaning. -/

namespace Sys2Proof.Machine

def exec (i : Instr) (s : State) : Host.Outcome State Fault Refusal :=
  match i with
  | .fclr => Sys2Proof.Machine.execFclr s
  | .fload => Sys2Proof.Machine.execFload s
  | .fget f => Sys2Proof.Machine.execFget f s
  | .fset f v => Sys2Proof.Machine.execFset f v s
  | .fread => Sys2Proof.Machine.execFread s
  | .rxput b => Sys2Proof.Machine.execRxput b s
  | .rxclr => Sys2Proof.Machine.execRxclr s
  | .setprio p => Sys2Proof.Machine.execSetprio p s
  | .setdlc n => Sys2Proof.Machine.execSetdlc n s
  | .setcmd code r dlc => Sys2Proof.Machine.execSetcmd code r dlc s
  | .sethash h => Sys2Proof.Machine.execSethash h s
  | .setdev dev sub => Sys2Proof.Machine.execSetdev dev sub s
  | .settrk dev sub state recent => Sys2Proof.Machine.execSettrk dev sub state recent s
  | .togtrk => Sys2Proof.Machine.execTogtrk s
  | .togtrkv new => Sys2Proof.Machine.execTogtrkv new s
  | .fresp => Sys2Proof.Machine.execFresp s
  | .hash id => Sys2Proof.Machine.execHash id s
  | .decode => Sys2Proof.Machine.execDecode s
  | .tsetbit n v => Sys2Proof.Machine.execTsetbit n v s
  | .tseton n => Sys2Proof.Machine.execTseton n s
  | .tsetoff n => Sys2Proof.Machine.execTsetoff n s
  | .tsetall bits => Sys2Proof.Machine.execTsetall bits s
  | .tcommit => Sys2Proof.Machine.execTcommit s
  | .treset => Sys2Proof.Machine.execTreset s
  | .tdiff => Sys2Proof.Machine.execTdiff s
  | .tstr => Sys2Proof.Machine.execTstr s
  | .tchg => Sys2Proof.Machine.execTchg s

end Sys2Proof.Machine
end

