-- ==== Sys2Proof/Machine/Perform.lean ====
section
/-! DEFINITION. The performing of one operation word (30_encoding.md R48): an illegal word is answered with
`IllegalOperation` before any check of an operation (60_exceptions.md R183), a legal one runs its operation. -/

namespace Sys2Proof.Machine

/-- Decode the word, then raise or run (R48, R183). -/
def performWord (w : OpWord) (s : State) : Out :=
  match decode w with
  | .error _ => fail s .illegalOperation
  | .ok i => exec i s

end Sys2Proof.Machine
end

