-- ==== Sys2Proof/Machine/Step.lean ====
section
/-! DEFINITION. One step: take the host's next word and perform it (00_scope.md R5, R7; 20_memory.md R39, R40). -/

namespace Sys2Proof.Machine

/-- One operation of the block, or nothing when the host has presented no word (log 5). -/
def step (s : State) : Host.Outcome State Fault Refusal :=
  match fetch s with
  | none => idle s
  | some (w, s') => performWord w s'

/-- The host presents the word whose bits are `w` ahead of all others, so that the next step performs it (log 4). -/
def State.withFetchWord (s : State) (nbits w : Nat) : State := s.presentFirst (BitVec.ofNat 72 (w % 2 ^ nbits))

end Sys2Proof.Machine
end

