-- ==== Sys2Proof/Machine/Assembler.lean ====
section
/-! DEFINITION. The assembler of the spec's own syntax (30_encoding.md R57 to R61): field names, operand order, the
pseudo-operations, and the text of a line. Host side, no part of the step. -/

namespace Sys2Proof.Machine

/-- The 13 field names in index order, case-sensitive (R59; 10_state.md R11). -/
def fieldNames : List String :=
  ["prio", "cmdAndResp", "hashH", "hashL", "dlc", "d0", "d1", "d2", "d3", "d4", "d5", "d6", "d7"]

/-- The index of a name in a list, counting from `n`; 0xFF when it is not there. -/
def nameCode (name : String) : List String → Nat → Byte
  | [], _ => 0xFF
  | x :: xs, n => if x = name then BitVec.ofNat 8 n else nameCode name xs (n + 1)

/-- The field operand that a name stands for: its index, or `0xFF` for a name that is not one of the 13 (R59, D13). -/
def fieldCode (name : String) : Byte := nameCode name fieldNames 0

/-- An operand as written: a number, or a field name (R57, R59). -/
inductive AsmOperand where
  | num (n : Nat)
  | name (s : String)
  deriving DecidableEq, Repr

/-- A numeric operand of `width` bits; a wider number, or a name, cannot be given (93_implementation_defined.md U3; log 15). -/
def numArg (width : Nat) : AsmOperand → Option (BitVec width)
  | .num n => if n < 2 ^ width then some (BitVec.ofNat width n) else none
  | .name _ => none

/-- A one-bit operand. -/
def bitArg : AsmOperand → Option Bool
  | .num 0 => some false
  | .num 1 => some true
  | .num _ => none
  | .name _ => none

/-- A field operand: a number of 8 bits or a name (R59). -/
def fieldArg : AsmOperand → Option Byte
  | .num n => numArg 8 (.num n)
  | .name s => some (fieldCode s)

/-- The operations of `FNEW b0, ..., b(L-1)`, any L (R61). -/
def fnew (bs : List Byte) : List Instr := [.rxclr] ++ bs.map .rxput ++ [.fload]

/-- The bytes of FNEW's operands. -/
def byteArgs : List AsmOperand → Option (List Byte)
  | [] => some []
  | a :: rest => (numArg 8 a).bind fun b => (byteArgs rest).map fun bs => b :: bs

/-- The operations of one line: a mnemonic and its operands in the order of R58, the pseudo-operations of R61 among them;
none where the mnemonic, the number of operands or an operand's width does not fit. -/
def assemble (mnemonic : String) (ops : List AsmOperand) : Option (List Instr) :=
  match mnemonic, ops with
  | "FCLR", [] => some [.fclr]
  | "FLOAD", [] => some [.fload]
  | "FGET", [f] => (fieldArg f).map fun f => [.fget f]
  | "FSET", [f, v] => (fieldArg f).bind fun f => (numArg 8 v).map fun v => [.fset f v]
  | "FREAD", [] => some [.fread]
  | "RXPUT", [b] => (numArg 8 b).map fun b => [.rxput b]
  | "RXCLR", [] => some [.rxclr]
  | "SETPRIO", [p] => (numArg 8 p).map fun p => [.setprio p]
  | "SETDLC", [n] => (numArg 8 n).map fun n => [.setdlc n]
  | "SETCMD", [code, r, dlc] =>
    (numArg 8 code).bind fun code => (bitArg r).bind fun r => (numArg 8 dlc).map fun dlc => [.setcmd code r dlc]
  | "SETCMD", [code, r] => (numArg 8 code).bind fun code => (bitArg r).map fun r => [.setcmd code r 8]
  | "SETHASH", [h] => (numArg 16 h).map fun h => [.sethash h]
  | "SETDEV", [dev, sub] => (numArg 16 dev).bind fun dev => (numArg 16 sub).map fun sub => [.setdev dev sub]
  | "SETTRK", [dev, sub, state, recent] =>
    (numArg 16 dev).bind fun dev => (numArg 16 sub).bind fun sub =>
      (numArg 8 state).bind fun state => (numArg 8 recent).map fun recent => [.settrk dev sub state recent]
  | "TOGTRK", [] => some [.togtrk]
  | "TOGTRKV", [new] => (numArg 8 new).map fun new => [.togtrkv new]
  | "TOGGLE", [] => some [.togtrk]
  | "TOGGLE", [new] => (numArg 8 new).map fun new => [.togtrkv new]
  | "FRESP", [] => some [.fresp]
  | "FNEW", bs => (byteArgs bs).map fnew
  | "HASH", [id] => (numArg 64 id).map fun id => [.hash id]
  | "DECODE", [] => some [.decode]
  | "TSETBIT", [n, v] => (numArg 8 n).bind fun n => (bitArg v).map fun v => [.tsetbit n v]
  | "TSETON", [n] => (numArg 8 n).map fun n => [.tseton n]
  | "TSETOFF", [n] => (numArg 8 n).map fun n => [.tsetoff n]
  | "TSETALL", [bits] => (numArg 64 bits).map fun bits => [.tsetall bits]
  | "TCOMMIT", [] => some [.tcommit]
  | "TRESET", [] => some [.treset]
  | "TDIFF", [] => some [.tdiff]
  | "TSTR", [] => some [.tstr]
  | "TCHG", [] => some [.tchg]
  | _, _ => none

/-! ## The text of a line (R57) -/

/-- The value of a digit in a base up to 16. -/
def digitValue (base : Nat) (c : Char) : Option Nat :=
  let n := c.toNat
  let v := if 0x30 ≤ n ∧ n ≤ 0x39 then n - 0x30 else if 0x41 ≤ n ∧ n ≤ 0x46 then n - 0x37
    else if 0x61 ≤ n ∧ n ≤ 0x66 then n - 0x57 else base
  if v < base then some v else none

/-- The value of a row of digits, after the digits read so far. -/
def digitsValue (base : Nat) : List Char → Nat → Option Nat
  | [], acc => some acc
  | c :: cs, acc => (digitValue base c).bind fun v => digitsValue base cs (acc * base + v)

/-- "Numbers are decimal or `0x` hexadecimal" (R57). -/
def parseNumber (cs : List Char) : Option Nat :=
  match cs with
  | [] => none
  | '0' :: 'x' :: d :: ds => digitsValue 16 (d :: ds) 0
  | c :: cs => digitsValue 10 (c :: cs) 0

/-- The pieces of a text between the occurrences of a separator. -/
def splitAtChar (sep : Char) : List Char → List (List Char)
  | [] => [[]]
  | c :: cs =>
    match splitAtChar sep cs with
    | [] => [[c]]
    | p :: ps => if c = sep then [] :: p :: ps else (c :: p) :: ps

/-- A text without the spaces at its two ends. -/
def trimSpaces (cs : List Char) : List Char :=
  ((cs.dropWhile (· = ' ')).reverse.dropWhile (· = ' ')).reverse

/-- An operand as written: a number if it reads as one, otherwise a name (R57, R59). -/
def parseOperand (cs : List Char) : AsmOperand :=
  match parseNumber cs with
  | some n => .num n
  | none => .name (String.ofList cs)

/-- One line: a comment starts with `;`, then the mnemonic and its operands separated by commas; an empty line holds no
operation (R57). -/
def assembleLine (cs : List Char) : Option (List Instr) :=
  let code := trimSpaces (cs.takeWhile (· ≠ ';'))
  let mnemonic := code.takeWhile (· ≠ ' ')
  let rest := trimSpaces (code.dropWhile (· ≠ ' '))
  let ops := if rest = [] then [] else (splitAtChar ',' rest).map fun p => parseOperand (trimSpaces p)
  if code = [] then some [] else assemble (String.ofList mnemonic) ops

/-- The lines of a program, front to back. -/
def assembleLines : List (List Char) → Option (List Instr)
  | [] => some []
  | l :: ls => (assembleLine l).bind fun is => (assembleLines ls).map fun js => is ++ js

/-- A program text, "one operation per line" (R57), as the host's list of operations. -/
def assembleText (text : String) : Option (List Instr) := assembleLines (splitAtChar '\n' text.toList)

/-- The operation words that the host presents for a list of operations. -/
def wordsOf (is : List Instr) : List OpWord := is.map encode

end Sys2Proof.Machine
end

