-- ==== Sys2Proof/Machine/ReportText.lean ====
section
/-! DEFINITION. The host's text form of the decoded report (45_report_text.md R160 to R172), a pure function of the item
list and no part of the step. What the spec does not fix is an opaque constant of Config (log 8). -/

namespace Sys2Proof.Machine

/-- One hexadecimal digit, lower case (R161). -/
def hexDigit (n : BitVec 4) : Char :=
  if n.toNat < 10 then Char.ofNat (0x30 + n.toNat) else Char.ofNat (0x57 + n.toNat)

/-- Two lower-case hexadecimal digits with a leading zero (R161). -/
def hex2 (b : Byte) : String := String.ofList [hexDigit (b.extractLsb' 4 4), hexDigit (b.extractLsb' 0 4)]

/-- One hexadecimal digit in either case (R167). -/
def hexDigitIn (upper : Bool) (n : BitVec 4) : Char :=
  if upper = true ∧ 10 ≤ n.toNat then Char.ofNat (0x37 + n.toNat) else hexDigit n

/-- The two hexadecimal digits of a byte in either case, with a leading zero (R161, R167). -/
def byteDigits (upper : Bool) (b : Byte) : List Char :=
  [hexDigitIn upper (b.extractLsb' 4 4), hexDigitIn upper (b.extractLsb' 0 4)]

/-- The digits of a hexadecimal number of at least `width` digits; a leading zero stands only to fill the width (R164). -/
def numberDigits (upper : Bool) (width : Nat) (b : Byte) : List Char :=
  let digits := if b.toNat < 16 then (byteDigits upper b).drop 1 else byteDigits upper b
  List.replicate (width - digits.length) '0' ++ digits

/-- A byte as a hexadecimal number in the spelling of an item kind, which is open but for its base (R164, R169). -/
def hexNumber (kind : Nat) (b : Byte) : String :=
  Config.hexPrefix kind ++ String.ofList (numberDigits (Config.hexUpper kind) (Config.hexWidth kind) b) ++
    Config.hexSuffix kind

/-- A hexadecimal dump of bytes in their order: two digits a byte, and a separator between them, and after the last one
if `trailing` (R167). -/
def hexDump (upper : Bool) (separator : String) (trailing : Bool) : List Byte → String
  | [] => ""
  | [b] => String.ofList (byteDigits upper b) ++ if trailing then separator else ""
  | b :: c :: bs => String.ofList (byteDigits upper b) ++ separator ++ hexDump upper separator trailing (c :: bs)

/-- "A 4-byte device-id hex dump" of `d0, d1, d2, d3`; separator and case are open (R167). -/
def devIdText (d0 d1 d2 d3 : Byte) : String :=
  hexDump (Config.hexUpper 4) Config.devIdSeparator Config.devIdTrailing [d0, d1, d2, d3]

/-- A number in decimal (R164, R171). -/
def decText (n : Nat) : String := Nat.repr n

/-- The first line: 13 bytes, each followed by a space (R161). -/
def rawText (fr : Frame) : String := String.join (fr.toList.map fun b => hex2 b ++ " ")

/-- The command names, as the source spells them (R165); no recognised code is "unknown command" (R164). -/
def CommandClass.name : CommandClass → String
  | .systemCommand => "System command"
  | .mfxDiscovery => "MFX Discovery"
  | .mfxBind => "MFX Bind"
  | .mfxVerify => "MFX Verify"
  | .locSpeed => "Loc speed"
  | .locDirection => "Loc direction"
  | .locFunction => "Loc function"
  | .locReadConfig => "Loc read config"
  | .locWriteConfig => "Loc write config"
  | .equipmentSwitch => "Equipment switch"
  | .trackState => "Track state"
  | .memberPing => "Member ping"
  | .statusdataConfig => "Statusdata config"
  | .unknown => "unknown command"

/-- The subcommand names (R168). -/
def Subcommand.name : Subcommand → String
  | .stopp => "STOPP"
  | .go => "GO"
  | .halt => "HALT"
  | .locEmergencyStop => "Loc-emergency-stop"
  | .locEndCycle => "Loc-end-cycle"
  | .mfxNewNotifyingCounter => "MFX-new-notifying-counter"
  | .systemOverload => "SYSTEM-OVERLOAD"
  | .systemStatus => "System-status"
  | .systemQuestion => "System-???"

/-- The protocol names (R169). -/
def ProtocolClass.name : ProtocolClass → String
  | .mfxProgRail => "MFX-ProgRail"
  | .mm2 => "MM2"
  | .mfxMainRail => "MFX-MainRail"

/-- A label of a body line padded to 15 characters; the character and the side are open (R162). -/
def fixedLabel (label : String) : String :=
  let pad := String.ofList (List.replicate (15 - label.length) Config.padChar)
  if Config.padOnRight then label ++ pad else pad ++ label

/-- The label of a body line that the source does not quote, before its padding: at most 15 open characters (R162). -/
def openLabel (kind : Nat) : String :=
  String.ofList ((Config.bodyLabelChars kind).toList.take (Config.bodyLabelLength kind).val)

/-- The hexadecimal value after a protocol's name: after MFX-MainRail, and after the others if the source meant all three
(R169). -/
def protocolSuffix (cls : ProtocolClass) (val : Byte) : String :=
  if cls = .mfxMainRail ∨ Config.protocolHexForAll = true then hexNumber 10 val else ""

/-- What stands before the value of an item: nothing on the first line, an open text on the other header lines, a label of
15 characters on a body line, in which the source's word stands where it quotes one (R161, R162, R168, R170). -/
def Item.label : Item → String
  | .raw _ => ""
  | .msgType r => Config.headerLabel (Item.msgType r).kind
  | .command code cls => Config.headerLabel (Item.command code cls).kind
  | .dlc n => Config.headerLabel (Item.dlc n).kind
  | .channel _ => fixedLabel "channel"
  | .value _ => fixedLabel "value"
  | .position _ => fixedLabel "Position"
  | .current _ => fixedLabel "Strom"
  | .swTime _ _ => fixedLabel "Schaltzeit"
  | .devId d0 d1 d2 d3 => fixedLabel (openLabel (Item.devId d0 d1 d2 d3).kind)
  | .subCmd sub => fixedLabel (openLabel (Item.subCmd sub).kind)
  | .unkSub d4 => fixedLabel (openLabel (Item.unkSub d4).kind)
  | .counter d5 d6 => fixedLabel (openLabel (Item.counter d5 d6).kind)
  | .protocol cls val => fixedLabel (openLabel (Item.protocol cls val).kind)
  | .sigQ d5 => fixedLabel (openLabel (Item.sigQ d5).kind)
  | .unkDlc n => fixedLabel (openLabel (Item.unkDlc n).kind)
  | .devNum n => fixedLabel (openLabel (Item.devNum n).kind)
  | .contact n => fixedLabel (openLabel (Item.contact n).kind)
  | .stRecent d4 => fixedLabel (openLabel (Item.stRecent d4).kind)
  | .state d5 => fixedLabel (openLabel (Item.state d5).kind)
  | .swVer d4 d5 => fixedLabel (openLabel (Item.swVer d4 d5).kind)
  | .dbVer d6 d7 => fixedLabel (openLabel (Item.dbVer d6 d7).kind)

/-- The value of an item, as far as the spec fixes it (R161, R163, R164, R166 to R172). -/
def Item.valueText : Item → String
  | .raw fr => rawText fr
  | .msgType r => if r then "response" else "command"
  | .command code cls => decText code.toNat ++ " (" ++ hexNumber 2 code ++ ") - " ++ cls.name
  | .dlc n => Config.byteText 3 n
  | .devId d0 d1 d2 d3 => devIdText d0 d1 d2 d3
  | .subCmd sub => sub.name
  | .unkSub d4 => "unknown subcommand" ++ Config.unknownSuffix 6 d4
  | .counter d5 d6 => Config.pairText 7 d5 d6
  | .channel d5 => Config.byteText 8 d5
  | .value d5 => Config.byteText 9 d5
  | .protocol cls val => cls.name ++ protocolSuffix cls val
  | .sigQ d5 => Config.byteText 11 d5
  | .unkDlc n => "unknown datalength for this subcommand" ++ Config.unknownSuffix 12 n
  | .position d4 => Config.byteText 13 d4
  | .current d5 => Config.byteText 14 d5
  | .swTime d6 d7 => Config.pairText 15 d6 d7
  | .devNum n => decText n.toNat
  | .contact n => decText n.toNat
  | .stRecent d4 => decText d4.toNat
  | .state d5 => decText d5.toNat
  | .swVer d4 d5 => Config.byteText 20 d4 ++ "." ++ Config.byteText 20 d5
  | .dbVer d6 d7 => Config.byteText 21 d6 ++ "." ++ Config.byteText 21 d7

/-- The line of an item, without its end (R160, R162). -/
def Item.line (it : Item) : String := it.label ++ it.valueText

/-- `render(report, EOL)`: one line for each item, in the list's order, each ended by `EOL` (R160). -/
def render (items : List Item) (eol : String) : String := String.join (items.map fun it => it.line ++ eol)

/-- The text that the host shows, with the platform's line terminator (R160, D25). -/
def renderHere (items : List Item) : String := render items Config.eol

end Sys2Proof.Machine
end

