-- ==== Sys2Proof/WellFormed.lean ====
section
/-! DEFINITION. Checks on an operation as syntax. Every operand's type is exactly its field of the operation word
(30_encoding.md R46, R53), so EVERY term of `Instr` can be encoded and none is ill-formed as an encoding. What can be
checked is the documented range of R53: an operand outside it is still performed, or refused with a status, as the
operation's own rule says; a claim about any re-implementation takes `documented` as a premise
(93_implementation_defined.md U1, U2, U5, U6). -/

namespace Sys2Proof

/-- R53: a documented field index, "0..12, the 13 names". -/
def fieldDocumented (f : Byte) : Bool := f.toNat ≤ 12

/-- R53: a documented data length, 0..8. -/
def dlcDocumented (n : Byte) : Bool := n.toNat ≤ 8

/-- R53: a documented command code, an even value. -/
def codeDocumented (code : Byte) : Bool := code.toNat % 2 = 0

/-- R53: a documented channel, 1..NCH. -/
def channelDocumented (nch : Nat) (n : Byte) : Bool := 1 ≤ n.toNat && n.toNat ≤ nch

/-- R53: documented `TSETALL` bits, none at or above NCH. -/
def bitsDocumented (nch : Nat) (bits : Operand) : Bool := bits.toNat < 2 ^ nch

/-- R53: a documented identifier, 32 or 48 bits. -/
def idDocumented (id : Operand) : Bool := id.toNat < 2 ^ 48

/-- Every operand lies in the range that R53 documents, for an instance with `nch` channels. -/
def Instr.documented (nch : Nat) : Instr → Bool
  | .fget f => fieldDocumented f
  | .fset f _ => fieldDocumented f
  | .setdlc n => dlcDocumented n
  | .setcmd code _ dlc => codeDocumented code && dlcDocumented dlc
  | .hash id => idDocumented id
  | .tsetbit n _ => channelDocumented nch n
  | .tseton n => channelDocumented nch n
  | .tsetoff n => channelDocumented nch n
  | .tsetall bits => bitsDocumented nch bits
  | .fclr => true
  | .fload => true
  | .fread => true
  | .rxput _ => true
  | .rxclr => true
  | .setprio _ => true
  | .sethash _ => true
  | .setdev _ _ => true
  | .settrk _ _ _ _ => true
  | .togtrk => true
  | .togtrkv _ => true
  | .fresp => true
  | .decode => true
  | .tcommit => true
  | .treset => true
  | .tdiff => true
  | .tstr => true
  | .tchg => true

end Sys2Proof
end

