-- ==== Sys2Proof/Safety.lean ====
section
/-! DEFINITION. The terms that statements use: the invariant of the state, what an operation keeps, what it answers, and
which states no operation can tell apart. -/

namespace Sys2Proof.Machine

/-- The invariant of every reachable state (10_state.md R27, R17; 44_tracker.md R153; 00_scope.md R3): NCH is in 1..64 and
nothing above channel NCH is stored. Position 0 has no storage at all. -/
abbrev State.Inv (s : State) : Prop :=
  Config.minNch ≤ s.nch ∧ s.nch ≤ Config.maxNch ∧ s.cur >>> s.nch = 0 ∧ s.prv >>> s.nch = 0

/-- Every byte of the space `FR` outside `except` reads as before (20_memory.md R30). -/
def KeepsFrame (except : List Nat) (s t : State) : Prop :=
  ∀ a, a ∉ except → t.memRead .fr a = s.memRead .fr a

/-- Every byte of the space `RXBUF` reads as before. -/
def KeepsStaged (s t : State) : Prop := ∀ a, t.memRead .rxbuf a = s.memRead .rxbuf a

/-- The staging buffer and its count are as before. -/
def KeepsStaging (s t : State) : Prop := KeepsStaged s t ∧ t.rxlen = s.rxlen

/-- Both tracker registers, hence the flag CHANGED, are as before. -/
def KeepsTracker (s t : State) : Prop := t.cur = s.cur ∧ t.prv = s.prv ∧ t.nch = s.nch ∧ t.changed = s.changed

/-- The words still to be performed and the channel count are as before. -/
def KeepsPort (s t : State) : Prop := t.port = s.port ∧ t.nch = s.nch

/-- Everything but the response is as before. -/
def KeepsAll (s t : State) : Prop := KeepsFrame [] s t ∧ KeepsStaging s t ∧ KeepsTracker s t ∧ KeepsPort s t

/-- The operation ended with OK and this result. -/
def Answers (t : State) (r : Result) : Prop := t.resp = some (.ok r)

/-- The operation ended with this error and no result. -/
def Raises (t : State) (e : ErrorKind) : Prop := t.resp = some (.error e)

/-- `DECODE` at `s` answers the four header items, with this class, and this body; it writes nothing (R100). -/
def DecodesTo (s : State) (cls : CommandClass) (body : List Item) : Prop :=
  ∃ t, exec .decode s = .next t ∧ KeepsAll s t ∧
    Answers t (.report ([.raw s.fr, .msgType ((s.readFr 1).getLsbD 0), .command (s.readFr 1 &&& 0xFE) cls,
      .dlc (s.readFr 4)] ++ body))

/-- The DEVID item of the frame in `s` (R106). -/
def devIdOf (s : State) : Item := .devId (s.readFr 5) (s.readFr 6) (s.readFr 7) (s.readFr 8)

/-- Two states that no operation can tell apart: only bytes of `RXBUF` that have not been staged since the last clear, the
last response and the words still to come may differ (10_state.md R14). -/
def ObsEq (s t : State) : Prop :=
  t.fr = s.fr ∧ t.rxlen = s.rxlen ∧ t.cur = s.cur ∧ t.prv = s.prv ∧ t.nch = s.nch ∧
    ∀ a, a < s.rxlen.toNat → t.memRead .rxbuf a = s.memRead .rxbuf a

/-- The operations of the TRACKER unit (44_tracker.md). -/
def isTracker : Instr → Bool
  | .tsetbit _ _ => true
  | .tseton _ => true
  | .tsetoff _ => true
  | .tsetall _ => true
  | .tcommit => true
  | .treset => true
  | .tdiff => true
  | .tstr => true
  | .tchg => true
  | .fclr => false
  | .fload => false
  | .fget _ => false
  | .fset _ _ => false
  | .fread => false
  | .rxput _ => false
  | .rxclr => false
  | .setprio _ => false
  | .setdlc _ => false
  | .setcmd _ _ _ => false
  | .sethash _ => false
  | .setdev _ _ => false
  | .settrk _ _ _ _ => false
  | .togtrk => false
  | .togtrkv _ => false
  | .fresp => false
  | .hash _ => false
  | .decode => false

/-- The operations that write no state at all (20_memory.md R38). -/
def isQuery : Instr → Bool
  | .fget _ => true
  | .fread => true
  | .fresp => true
  | .decode => true
  | .tdiff => true
  | .tstr => true
  | .tchg => true
  | .hash _ => true
  | .fclr => false
  | .fload => false
  | .fset _ _ => false
  | .rxput _ => false
  | .rxclr => false
  | .setprio _ => false
  | .setdlc _ => false
  | .setcmd _ _ _ => false
  | .sethash _ => false
  | .setdev _ _ => false
  | .settrk _ _ _ _ => false
  | .togtrk => false
  | .togtrkv _ => false
  | .tsetbit _ _ => false
  | .tseton _ => false
  | .tsetoff _ => false
  | .tsetall _ => false
  | .tcommit => false
  | .treset => false

/-- The statuses that R177's table gives an opcode. -/
def possibleStatuses (opc : Nat) : List Nat :=
  if opc = 0x20 ∨ opc = 0x43 then [0]
  else if opc = 0x02 then [0, 1, 4]
  else if opc = 0x03 ∨ opc = 0x04 then [0, 2, 4]
  else if opc = 0x40 ∨ opc = 0x41 ∨ opc = 0x42 then [0, 3, 4]
  else if (1 ≤ opc ∧ opc ≤ 7) ∨ (0x10 ≤ opc ∧ opc ≤ 0x18) ∨ opc = 0x30 ∨ (0x44 ≤ opc ∧ opc ≤ 0x48) then [0, 4]
  else [4]

/-- A run from `s` in which the host presents these operations and nothing else, one step for each. -/
def runOps (s : State) (is : List Instr) : Host.Outcome State Fault Refusal :=
  Host.Core.run Sys2Proof.core is.length { s with port := wordsOf is }

end Sys2Proof.Machine
end

