-- ==== Sys2Proof/Certificates/Slice0/Obligations.lean ====
section
/-! DEFINITION. The statements for the provers. Each docstring names the rule of spec/ that the statement formalises, or
says that the statement rests on a choice of the model. -/

open Sys2Proof Sys2Proof.Machine

/-! ## Encoding -/

/-- R45, R46, R50: decoding the word of an operation gives the operation back, every operand at every value. -/
def Obligations.DecodeOfEncodeIsTheOperation : Prop :=
  ∀ i : Instr, decode (encode i) = .ok i

/-- R48, R49: a legal word is the word of the operation it decodes to, so decoding drops no bit. -/
def Obligations.EncodeOfDecodeIsTheWord : Prop :=
  ∀ (w : OpWord) (i : Instr), decode w = .ok i → encode i = w

/-- R50, section 2: a word is legal exactly when it matches one row of the opcode table, it can match at most one, and
the row is that of the operation. -/
def Obligations.LegalWordMatchesExactlyOneRow : Prop :=
  ∀ w : OpWord,
    ((∃ i, decode w = .ok i) ↔ ∃ row ∈ opcodeTable, row.admits w = true) ∧
    (opcodeTable.filter fun row => row.admits w).length ≤ 1 ∧
    ∀ i row, decode w = .ok i → row ∈ opcodeTable → row.admits w = true → row.mnemonic = i.mnemonic

/-- R51: the reserved opcodes are those of the list, and a word with one is answered with `IllegalOperation`, whatever its
operand field holds, and changes nothing. -/
def Obligations.ReservedOpcodeIsIllegal : Prop :=
  ∀ opc : Byte,
    ((opc.toNat = 0 ∨ (0x08 ≤ opc.toNat ∧ opc.toNat ≤ 0x0F) ∨ (0x19 ≤ opc.toNat ∧ opc.toNat ≤ 0x1F) ∨
        (0x21 ≤ opc.toNat ∧ opc.toNat ≤ 0x2F) ∨ (0x31 ≤ opc.toNat ∧ opc.toNat ≤ 0x3F) ∨ 0x49 ≤ opc.toNat) ↔
      ∀ row ∈ opcodeTable, opcodeOf row.pattern ≠ opc) ∧
    ((∀ row ∈ opcodeTable, opcodeOf row.pattern ≠ opc) →
      ∀ (s : State) (p : Operand) (rest : List OpWord), s.port = wordOf opc p :: rest →
        ∃ t, step s = .next t ∧ Raises t .illegalOperation ∧ t.port = rest ∧
          KeepsFrame [] s t ∧ KeepsStaging s t ∧ KeepsTracker s t)

/-- R49: a word with an assigned opcode and a reserved bit of `P` set is answered with `IllegalOperation` and changes
nothing. -/
def Obligations.ReservedBitIsIllegal : Prop :=
  ∀ (s : State) (w : OpWord) (rest : List OpWord), ∀ row ∈ opcodeTable,
    s.port = w :: rest → opcodeOf w = opcodeOf row.pattern → operandOf w &&& operandOf row.mask ≠ 0#64 →
      ∃ t, step s = .next t ∧ Raises t .illegalOperation ∧ t.port = rest ∧
        KeepsFrame [] s t ∧ KeepsStaging s t ∧ KeepsTracker s t

/-- A line of assembler text stands for this operation, whose word is `w`, and `w` decodes to it. -/
def WorkedEncoding (text : String) (i : Instr) (w : OpWord) : Prop :=
  assembleText text = some [i] ∧ encode i = w ∧ decode w = .ok i

/-- R62: the ten worked encodings. -/
def Obligations.WorkedEncodingsAgree : Prop :=
  WorkedEncoding "FCLR" .fclr 0x010000000000000000 ∧
  WorkedEncoding "FSET d4, 0x2A" (.fset 9 0x2A) 0x04000000000000092A ∧
  WorkedEncoding "SETCMD 0x22, 0, 8" (.setcmd 0x22 false 8) 0x120000000000080022 ∧
  WorkedEncoding "SETCMD 0x22, 1, 8" (.setcmd 0x22 true 8) 0x120000000000080122 ∧
  WorkedEncoding "SETHASH 0xCB7F" (.sethash 0xCB7F) 0x13000000000000CB7F ∧
  WorkedEncoding "SETDEV 0, 30" (.setdev 0 30) 0x14000000000000001E ∧
  WorkedEncoding "SETTRK 0, 30, 0, 0" (.settrk 0 30 0 0) 0x1500000000001E0000 ∧
  WorkedEncoding "HASH 0xF0B0149FADE0" (.hash 0xF0B0149FADE0) 0x200000F0B0149FADE0 ∧
  WorkedEncoding "TSETBIT 3, 1" (.tsetbit 3 true) 0x400000000000000301 ∧
  WorkedEncoding "TSETALL 0x8001" (.tsetall 0x8001) 0x430000000000008001

/-- R59: the 13 names stand for the indices 0 to 12; any other name is encoded as 0xFF, which the block answers with
`UnknownField`. Beside it, 30_encoding.md section 6: the default data length of 8, the two spellings of TOGGLE, and the
operations of FNEW. -/
def Obligations.AssemblerNamesAndPseudoOperations : Prop :=
  (["prio", "cmdAndResp", "hashH", "hashL", "dlc", "d0", "d1", "d2", "d3", "d4", "d5", "d6", "d7"].map fieldCode =
    [0, 1, 2, 3, 4, 5, 6, 7, 8, 9, 10, 11, 12]) ∧
  (∀ name : String, assemble "FGET" [.name name] = some [.fget (fieldCode name)] ∧
    (name ∉ ["prio", "cmdAndResp", "hashH", "hashL", "dlc", "d0", "d1", "d2", "d3", "d4", "d5", "d6", "d7"] →
      fieldCode name = 0xFF ∧
      ∀ s, ∃ t, exec (.fget (fieldCode name)) s = .next t ∧ Raises t .unknownField ∧ KeepsAll s t)) ∧
  (∀ code r, assemble "SETCMD" [code, r] = assemble "SETCMD" [code, r, .num 8]) ∧
  assemble "TOGGLE" [] = assemble "TOGTRK" [] ∧
  (∀ new, assemble "TOGGLE" [new] = assemble "TOGTRKV" [new]) ∧
  ∀ bs : List Byte, assemble "FNEW" (bs.map fun b => .num b.toNat) =
    some (.rxclr :: (bs.map fun b => .rxput b) ++ [.fload])

/-! ## The step -/

/-- R48, R40: the step performs the host's first word: an operation that the word decodes to runs at the state with that
word taken. The second clause, about the table's word that `withFetchWord` presents and `decodeTableWord` reads, is the
model's choice (log 4), and so is the third: with no word presented the step changes nothing (log 5). -/
def Obligations.StepRunsDecodedOperation : Prop :=
  (∀ (s : State) (w : OpWord) (rest : List OpWord) (i : Instr),
    s.port = w :: rest → decode w = .ok i → step s = exec i { s with port := rest }) ∧
  (∀ (s : State) (w : Nat) (i : Instr), decodeTableWord 72 w = some i → step (s.withFetchWord 72 w) = exec i s) ∧
  ∀ s : State, s.port = [] → step s = .next s

/-- R7, R201: a run over the host's list of words performs all of them, never stops on the way, and keeps the
invariant. -/
def Obligations.RunPerformsWholeList : Prop :=
  ∀ s : State, ∃ t, Host.Core.run Sys2Proof.core s.port.length s = .next t ∧ t.port = [] ∧ t.nch = s.nch ∧
    (s.Inv → t.Inv)

/-- R27, R17, R153: every step keeps the invariant: NCH in 1..64 and nothing stored above channel NCH. -/
def Obligations.StepKeepsInvariant : Prop :=
  ∀ s t : State, s.Inv → step s = .next t → t.Inv ∧ t.nch = s.nch

/-- R26, R27: the reset state of every instance meets the invariant. -/
def Obligations.ResetMeetsInvariant : Prop :=
  (∀ n, 1 ≤ n → n ≤ 64 → (State.resetFor n).Inv) ∧ State.reset.Inv

/-- R178: an error ends the operation with its code and no result and changes no architectural state, but that
`InvalidFrameLength` leaves `RXLEN` cleared. -/
def Obligations.ErrorChangesNothingButStagedCount : Prop :=
  ∀ (s t : State) (e : ErrorKind), s.port ≠ [] → step s = .next t → t.resp = some (.error e) →
    (Response.error e).st = e.code ∧ e.code ≠ 0 ∧ (Response.error e).res = none ∧
    KeepsFrame [] s t ∧ KeepsStaged s t ∧ KeepsTracker s t ∧
    (e = .invalidFrameLength → t.rxlen = 0) ∧ (e ≠ .invalidFrameLength → t.rxlen = s.rxlen)

/-- R179: no error state: the next operation does not depend on the last response. -/
def Obligations.NoErrorStateIsKept : Prop :=
  ∀ (s : State) (r : Option Response), s.port ≠ [] →
    step { s with resp := r } = step s ∧ ∃ t a, step s = .next t ∧ t.resp = some a

/-- R177 (60_exceptions.md section 1): the status of a performed word is one that the table gives its opcode, and it is
`IllegalOperation` exactly for an illegal word. -/
def Obligations.StatusIsOneOfTheTable : Prop :=
  ∀ (s : State) (w : OpWord) (rest : List OpWord), s.port = w :: rest →
    ∃ t a, step s = .next t ∧ t.resp = some a ∧ a.st.toNat ∈ possibleStatuses (opcodeOf w).toNat ∧
      (a.st.toNat = 4 ↔ ¬ ∃ i, decode w = .ok i)

/-- R53, R181: an operation with every operand in its documented range is answered with OK; FLOAD is, exactly when 13
bytes are staged. -/
def Obligations.DocumentedOperationSucceeds : Prop :=
  ∀ (i : Instr) (s : State), i.documented s.nch = true →
    ∃ t a, exec i s = .next t ∧ t.resp = some a ∧ (a.st = 0 ↔ (i = .fload → s.rxlen = 13))

/-! ## Reset -/

/-- R26: the values after reset, and that the bytes of `RXBUF`, which the rule leaves open, are not observable: whatever
they are, every run from reset gives the same responses. (That an instance has 16 channels by default is R3. That they
are zero is the model's choice, log 2, and nothing is stated about it.) -/
def Obligations.ResetValues : Prop :=
  (∀ n : Nat, let s := State.resetFor n
    (∀ a, a < 13 → s.memRead .fr a = some 0) ∧ s.rxlen = 0 ∧
      (∀ k, s.curChan k = false ∧ s.prvChan k = false) ∧ s.changed = false ∧ s.nch = n) ∧
  State.reset = State.resetFor 16 ∧
  ∀ (n k : Nat) (rb : Vector Byte 13) (ws : List OpWord), ∃ t t',
    Host.Core.run Sys2Proof.core k { State.resetFor n with port := ws } = .next t ∧
    Host.Core.run Sys2Proof.core k { State.resetFor n with port := ws, rxbuf := rb } = .next t' ∧ t'.resp = t.resp

/-- R191: what the queries answer after reset, for every channel count. -/
def Obligations.QueriesAfterReset : Prop :=
  ∀ n : Nat, 1 ≤ n → n ≤ 64 → let s := State.resetFor n
    (∃ t fr, exec .fread s = .next t ∧ Answers t (.frame fr) ∧ ∀ b ∈ fr.toList, b = 0) ∧
    (∃ t fr, exec .decode s = .next t ∧ (∀ b ∈ fr.toList, b = 0) ∧
      Answers t (.report [.raw fr, .msgType false, .command 0 .systemCommand, .dlc 0, .devId 0 0 0 0,
        .subCmd .stopp])) ∧
    (∃ t, exec .tstr s = .next t ∧ Answers t (.chars (List.replicate n '0'))) ∧
    (∃ t, exec .tdiff s = .next t ∧ Answers t (.changes [])) ∧
    (∃ t, exec .tchg s = .next t ∧ Answers t (.bit false)) ∧
    (∃ t, exec .fload s = .next t ∧ Raises t .invalidFrameLength)

/-- R192: FCLR, TRESET, RXCLR bring every observable piece of state to its reset value from any state. -/
def Obligations.ClearSequenceReachesReset : Prop :=
  ∀ s : State, ∃ t, runOps s [.fclr, .treset, .rxclr] = .next t ∧ ObsEq (State.resetFor s.nch) t

/-! ## FRAME unit -/

/-- R65. -/
def Obligations.FclrZeroesFrame : Prop :=
  ∀ s, ∃ t, exec .fclr s = .next t ∧ Answers t .none ∧ (∀ a, a ≤ 12 → t.memRead .fr a = some 0) ∧
    KeepsStaging s t ∧ KeepsTracker s t ∧ KeepsPort s t

/-- R66: the two outcomes of FLOAD; `RXLEN` is cleared in both. -/
def Obligations.FloadLoadsExactlyThirteen : Prop :=
  ∀ s : State,
    (s.rxlen.toNat = 13 → ∃ t, exec .fload s = .next t ∧ Answers t .none ∧ t.rxlen = 0 ∧
      (∀ a, t.memRead .fr a = s.memRead .rxbuf a) ∧ KeepsStaged s t ∧ KeepsTracker s t ∧ KeepsPort s t) ∧
    (s.rxlen.toNat ≠ 13 → ∃ t, exec .fload s = .next t ∧ Raises t .invalidFrameLength ∧ t.rxlen = 0 ∧
      KeepsFrame [] s t ∧ KeepsStaged s t ∧ KeepsTracker s t ∧ KeepsPort s t)

/-- R67. -/
def Obligations.FgetReadsField : Prop :=
  ∀ (s : State) (f : Byte),
    (f.toNat ≤ 12 → ∃ t b, exec (.fget f) s = .next t ∧ s.memRead .fr f.toNat = some b ∧ Answers t (.byte b) ∧
      KeepsAll s t) ∧
    (12 < f.toNat → ∃ t, exec (.fget f) s = .next t ∧ Raises t .unknownField ∧ KeepsAll s t)

/-- R68. -/
def Obligations.FsetWritesField : Prop :=
  ∀ (s : State) (f v : Byte),
    (f.toNat ≤ 12 → ∃ t, exec (.fset f v) s = .next t ∧ Answers t .none ∧ t.memRead .fr f.toNat = some v ∧
      KeepsFrame [f.toNat] s t ∧ KeepsStaging s t ∧ KeepsTracker s t ∧ KeepsPort s t) ∧
    (12 < f.toNat → ∃ t, exec (.fset f v) s = .next t ∧ Raises t .unknownField ∧ KeepsAll s t)

/-- FREAD answers the 13 bytes in index order (R69). FGET reads what FSET wrote, every other field as before, and FREAD
answers what 13 FGETs do: these clauses are R72, which the spec marks as its own inference. -/
def Obligations.FreadAndGetAfterSet : Prop :=
  (∀ s : State, ∃ t fr, exec .fread s = .next t ∧ Answers t (.frame fr) ∧ KeepsAll s t ∧
    (∀ i : Fin 13, s.memRead .fr i = some fr[i]) ∧
    ∀ i : Fin 13, ∃ u, exec (.fget (BitVec.ofNat 8 i.val)) s = .next u ∧ Answers u (.byte fr[i])) ∧
  ∀ (s : State) (f v : Byte), f.toNat ≤ 12 → ∃ t, exec (.fset f v) s = .next t ∧
    (∃ u, exec (.fget f) t = .next u ∧ Answers u (.byte v)) ∧
    ∀ g : Byte, g.toNat ≤ 12 → g ≠ f → ∃ b u u', exec (.fget g) s = .next u ∧ Answers u (.byte b) ∧
      exec (.fget g) t = .next u' ∧ Answers u' (.byte b)

/-- R70, R71: RXPUT stores at the address `RXLEN` while that is below 13, and counts up to 255; RXCLR clears the count and
leaves the bytes, after which FLOAD fails. -/
def Obligations.StagingStoresCountsAndClears : Prop :=
  (∀ (s : State) (b : Byte), ∃ t, exec (.rxput b) s = .next t ∧ Answers t .none ∧
    (s.rxlen.toNat < 13 → t.memRead .rxbuf s.rxlen.toNat = some b) ∧
    (∀ a, a ≠ s.rxlen.toNat → t.memRead .rxbuf a = s.memRead .rxbuf a) ∧
    (13 ≤ s.rxlen.toNat → KeepsStaged s t) ∧
    t.rxlen.toNat = min (s.rxlen.toNat + 1) 255 ∧ KeepsFrame [] s t ∧ KeepsTracker s t ∧ KeepsPort s t) ∧
  ∀ s : State, ∃ t, exec .rxclr s = .next t ∧ Answers t .none ∧ t.rxlen = 0 ∧ KeepsStaged s t ∧ KeepsFrame [] s t ∧
    KeepsTracker s t ∧ KeepsPort s t ∧ ∃ u, exec .fload t = .next u ∧ Raises u .invalidFrameLength

/-- R73: 13 staged bytes are read back exactly. -/
def Obligations.ThirteenStagedBytesReadBack : Prop :=
  ∀ (s : State) (bs : List Byte), s.rxlen = 0 → bs.length = 13 →
    ∃ t fr, runOps s (bs.map Instr.rxput ++ [.fload, .fread]) = .next t ∧ Answers t (.frame fr) ∧ fr.toList = bs

/-- R60, R66, R70 (creation from a buffer): the operations that the assembler makes of FNEW load a buffer of any length
exactly when it has 13 bytes; otherwise they end in `InvalidFrameLength` with the old frame in place. -/
def Obligations.BufferLoadsExactlyWhenThirteenBytes : Prop :=
  ∀ (s : State) (bs : List Byte), ∃ t, runOps s (fnew bs) = .next t ∧ t.rxlen = 0 ∧ KeepsTracker s t ∧
    (bs.length = 13 → Answers t .none ∧ ∀ a, t.memRead .fr a = bs[a]?) ∧
    (bs.length ≠ 13 → Raises t .invalidFrameLength ∧ KeepsFrame [] s t)

/-- R14: the stale bytes of `RXBUF` are not observable: two states that differ in them alone give the same responses and
stay alike, step after step. -/
def Obligations.StaleStagedBytesAreUnobservable : Prop :=
  ∀ s t : State, ObsEq s t → t.port = s.port →
    ∃ s' t', step s = .next s' ∧ step t = .next t' ∧ ObsEq s' t' ∧ t'.port = s'.port ∧
      (s.port ≠ [] → t'.resp = s'.resp)

/-! ## BUILDER unit -/

/-- R85, R86: SETPRIO and SETDLC are direct field writes. -/
def Obligations.SetprioAndSetdlcWriteOneField : Prop :=
  ∀ (s : State) (b : Byte),
    (∃ t, exec (.setprio b) s = .next t ∧ exec (.fset 0 b) s = .next t ∧ Answers t .none ∧
      t.memRead .fr 0 = some b ∧ KeepsFrame [0] s t ∧ KeepsStaging s t ∧ KeepsTracker s t ∧ KeepsPort s t) ∧
    (∃ t, exec (.setdlc b) s = .next t ∧ exec (.fset 4 b) s = .next t ∧ Answers t .none ∧
      t.memRead .fr 4 = some b ∧ KeepsFrame [4] s t ∧ KeepsStaging s t ∧ KeepsTracker s t ∧ KeepsPort s t)

/-- R87: `FR[1] <- (code + r) mod 256`, `FR[4] <- dlc`. -/
def Obligations.SetcmdWritesCommandAndLength : Prop :=
  ∀ (s : State) (code : Byte) (r : Bool) (dlc : Byte), ∃ t b, exec (.setcmd code r dlc) s = .next t ∧
    Answers t .none ∧ t.memRead .fr 1 = some b ∧ b.toNat = (code.toNat + (if r then 1 else 0)) % 256 ∧
    t.memRead .fr 4 = some dlc ∧ KeepsFrame [1, 4] s t ∧ KeepsStaging s t ∧ KeepsTracker s t ∧ KeepsPort s t

/-- R88: an even code keeps its command code and takes `r` as its response flag; an odd code does not. -/
def Obligations.SetcmdResponseFlagByParity : Prop :=
  ∀ (s : State) (code : Byte) (r : Bool) (dlc : Byte), ∃ t b, exec (.setcmd code r dlc) s = .next t ∧
    Answers t .none ∧ t.memRead .fr 1 = some b ∧
    (code.toNat % 2 = 0 → b.getLsbD 0 = r ∧ b &&& 0xFE = code ∧ (r = true → b = code ||| 1)) ∧
    (code.toNat % 2 = 1 → r = false → b = code ∧ b.getLsbD 0 = true) ∧
    (code.toNat % 2 = 1 → r = true → b.getLsbD 0 = false ∧ b &&& 0xFE = (code &&& 0xFE) + 2) ∧
    (code = 0xFF → r = true → b = 0)

/-- R89, R90: the hash, and the device and sub-device address, as big-endian pairs of bytes. -/
def Obligations.SethashAndSetdevWriteBigEndian : Prop :=
  (∀ (s : State) (h : Half), ∃ t hi lo, exec (.sethash h) s = .next t ∧ Answers t .none ∧
    t.memRead .fr 2 = some hi ∧ t.memRead .fr 3 = some lo ∧ hi.toNat = h.toNat / 256 ∧ lo.toNat = h.toNat % 256 ∧
    KeepsFrame [2, 3] s t ∧ KeepsStaging s t ∧ KeepsTracker s t ∧ KeepsPort s t) ∧
  ∀ (s : State) (dev sub : Half), ∃ t b0 b1 b2 b3, exec (.setdev dev sub) s = .next t ∧ Answers t .none ∧
    t.memRead .fr 5 = some b0 ∧ t.memRead .fr 6 = some b1 ∧ t.memRead .fr 7 = some b2 ∧ t.memRead .fr 8 = some b3 ∧
    dev.toNat = b0.toNat * 256 + b1.toNat ∧ sub.toNat = b2.toNat * 256 + b3.toNat ∧
    KeepsFrame [5, 6, 7, 8] s t ∧ KeepsStaging s t ∧ KeepsTracker s t ∧ KeepsPort s t

/-- R91: as SETDEV, then `recent` into `d4` and `state` into `d5`. -/
def Obligations.SettrkWritesAddressAndStates : Prop :=
  ∀ (s : State) (dev sub : Half) (state recent : Byte), ∃ t b0 b1 b2 b3,
    exec (.settrk dev sub state recent) s = .next t ∧ Answers t .none ∧
    t.memRead .fr 5 = some b0 ∧ t.memRead .fr 6 = some b1 ∧ t.memRead .fr 7 = some b2 ∧ t.memRead .fr 8 = some b3 ∧
    dev.toNat = b0.toNat * 256 + b1.toNat ∧ sub.toNat = b2.toNat * 256 + b3.toNat ∧
    t.memRead .fr 9 = some recent ∧ t.memRead .fr 10 = some state ∧
    KeepsFrame [5, 6, 7, 8, 9, 10] s t ∧ KeepsStaging s t ∧ KeepsTracker s t ∧ KeepsPort s t

/-- R92, R93: the old `d5` goes to `d4`; `d5` takes its bit 0 flipped, or the given byte. -/
def Obligations.TogglesShiftStateIntoRecent : Prop :=
  ∀ (s : State) (new : Byte),
    (∃ t old b, exec .togtrk s = .next t ∧ Answers t .none ∧ s.memRead .fr 10 = some old ∧
      t.memRead .fr 9 = some old ∧ t.memRead .fr 10 = some b ∧ b = old ^^^ 0x01 ∧
      KeepsFrame [9, 10] s t ∧ KeepsStaging s t ∧ KeepsTracker s t ∧ KeepsPort s t) ∧
    (∃ t, exec (.togtrkv new) s = .next t ∧ Answers t .none ∧ t.memRead .fr 9 = s.memRead .fr 10 ∧
      t.memRead .fr 10 = some new ∧
      KeepsFrame [9, 10] s t ∧ KeepsStaging s t ∧ KeepsTracker s t ∧ KeepsPort s t)

/-- R96: two TOGTRK restore `d5` and leave `d4` at the original `d5` with bit 0 flipped; after either toggle the new `d4`
is the `d5` before it. -/
def Obligations.TwoTogglesRestoreState : Prop :=
  ∀ (s : State) (x : Byte), s.memRead .fr 10 = some x →
    (∃ t, runOps s [.togtrk, .togtrk] = .next t ∧ t.memRead .fr 10 = some x ∧ t.memRead .fr 9 = some (x ^^^ 1) ∧
      KeepsFrame [9, 10] s t) ∧
    ∀ i : Instr, (i = .togtrk ∨ ∃ new, i = .togtrkv new) → ∃ t, exec i s = .next t ∧ t.memRead .fr 9 = some x

/-- R94: the response variant is read out; `FR` is not written. -/
def Obligations.FrespForcesResponseBit : Prop :=
  ∀ s : State, ∃ t fr, exec .fresp s = .next t ∧ Answers t (.frame fr) ∧ KeepsAll s t ∧
    fr[1] = s.readFr 1 ||| 0x01 ∧ fr[1].getLsbD 0 = true ∧ ∀ i : Fin 13, i ≠ 1 → fr[i] = s.readFr i

/-! ## HASH unit -/

/-- R80: the algorithm, on naturals; nothing is written. -/
def Obligations.HashFollowsAlgorithm : Prop :=
  ∀ (s : State) (id : Operand), ∃ t h, exec (.hash id) s = .next t ∧ Answers t (.hash h) ∧ KeepsAll s t ∧
    let v32 := id.toNat % 2 ^ 32
    let x := (v32 / 2 ^ 16) ^^^ (v32 % 2 ^ 16)
    h.toNat = (((x * 8) &&& 0xFF00) ||| 0x0300) ||| (x % 128)

/-- R81: the same function bit by bit. -/
def Obligations.HashEqualsWiring : Prop :=
  ∀ id : Operand, addressHash id = addressHashWires id ∧
    let h : Half := id.extractLsb' 16 16 ^^^ id.extractLsb' 0 16
    (∀ j, j < 6 → (addressHash id).getLsbD (10 + j) = h.getLsbD (7 + j)) ∧
    (addressHash id).getLsbD 9 = true ∧ (addressHash id).getLsbD 8 = true ∧ (addressHash id).getLsbD 7 = false ∧
    ∀ j, j < 7 → (addressHash id).getLsbD j = h.getLsbD j

/-- R82: the fixed bits of every result, and that every value with those bits is a result of some identifier. -/
def Obligations.HashResultsAreExactlyFixedPattern : Prop :=
  ∀ y : Half, (y &&& 0x0300 = 0x0300 ∧ y &&& 0x0080 = 0) ↔ ∃ id, addressHash id = y

/-! ## DECODE unit -/

/-- R104: the command table: class index and name for each of the 256 values of `FR[1]`. -/
def Obligations.CommandTableIsTheSpecs : Prop :=
  ∀ b : Byte,
    ((commandClass (b &&& 0xFE)).cid.toNat, (commandClass (b &&& 0xFE)).name) =
      (([(0, 0, "System command"), (2, 1, "MFX Discovery"), (4, 2, "MFX Bind"), (6, 3, "MFX Verify"),
        (8, 4, "Loc speed"), (10, 5, "Loc direction"), (12, 6, "Loc function"), (14, 7, "Loc read config"),
        (16, 8, "Loc write config"), (22, 9, "Equipment switch"), (34, 10, "Track state"), (48, 11, "Member ping"),
        (58, 12, "Statusdata config")] : List (Nat × Nat × String)).lookup (b &&& 0xFE).toNat).getD
        (15, "unknown command")

/-- R105, R124, R125: an unrecognised command gives the four header items and nothing else, and is no error; DECODE
answers OK with a report for every frame, writes nothing, and answers the same wherever the frame is the same. -/
def Obligations.DecodeAnswersEveryFrame : Prop :=
  (∀ s : State, (s.readFr 1 &&& 0xFE).toNat ∉ [0, 2, 4, 6, 8, 10, 12, 14, 16, 22, 34, 48, 58] →
    DecodesTo s .unknown []) ∧
  ∀ s : State, ∃ t items, exec .decode s = .next t ∧ Answers t (.report items) ∧ KeepsAll s t ∧
    ∀ u : State, u.fr = s.fr → ∃ u', exec .decode u = .next u' ∧ Answers u' (.report items)

/-- R108, R109, R110: the System command and its subcommand table, with the indices and names. -/
def Obligations.SystemCommandDispatchesOnSubcommand : Prop :=
  (∀ s : State, s.readFr 1 &&& 0xFE = 0 →
    let d4 := (s.readFr 9).toNat
    DecodesTo s .systemCommand (devIdOf s ::
      (if d4 = 0 then [.subCmd .stopp]
      else if d4 = 1 then [.subCmd .go]
      else if d4 = 2 then [.subCmd .halt]
      else if d4 = 3 then [.subCmd .locEmergencyStop]
      else if d4 = 4 then [.subCmd .locEndCycle]
      else if d4 = 9 then [.subCmd .mfxNewNotifyingCounter, .counter (s.readFr 10) (s.readFr 11)]
      else if d4 = 10 then [.subCmd .systemOverload, .channel (s.readFr 10)]
      else if d4 = 11 then [.subCmd .systemStatus, .channel (s.readFr 10)]
      else if d4 = 48 then [.subCmd .systemQuestion, .value (s.readFr 10)]
      else [.unkSub (s.readFr 9)]))) ∧
  ([.stopp, .go, .halt, .locEmergencyStop, .locEndCycle, .mfxNewNotifyingCounter, .systemOverload, .systemStatus,
      .systemQuestion] : List Subcommand).map (fun c => (c.sid.toNat, c.name)) =
    [(0, "STOPP"), (1, "GO"), (2, "HALT"), (3, "Loc-emergency-stop"), (4, "Loc-end-cycle"),
     (5, "MFX-new-notifying-counter"), (6, "SYSTEM-OVERLOAD"), (7, "System-status"), (8, "System-???")]

/-- R112: the class, number and name of a protocol byte. -/
def ProtocolIs (v : Byte) (cls : ProtocolClass) : Prop :=
  (v.toNat ≤ 32 ∧ cls = .mfxProgRail ∧ cls.pclass = 0 ∧ cls.name = "MFX-ProgRail") ∨
  (v.toNat = 33 ∧ cls = .mm2 ∧ cls.pclass = 1 ∧ cls.name = "MM2") ∨
  (34 ≤ v.toNat ∧ cls = .mfxMainRail ∧ cls.pclass = 2 ∧ cls.name = "MFX-MainRail")

/-- R111, R112: MFX Discovery and its data-length variants. -/
def Obligations.DiscoveryDispatchesOnLength : Prop :=
  ∀ s : State, s.readFr 1 &&& 0xFE = 2 →
    ∃ c0 c4, ProtocolIs (s.readFr 5) c0 ∧ ProtocolIs (s.readFr 9) c4 ∧
      DecodesTo s .mfxDiscovery
        (if s.readFr 4 = 1 then [.protocol c0 (s.readFr 5)]
        else if s.readFr 4 = 5 then [devIdOf s, .protocol c4 (s.readFr 9)]
        else if s.readFr 4 = 6 then [devIdOf s, .protocol c4 (s.readFr 9), .sigQ (s.readFr 10)]
        else [.unkDlc (s.readFr 4)])

/-- R113: the commands whose body is the device id alone, whatever the rest of the frame holds. -/
def Obligations.DeviceIdOnlyCommands : Prop :=
  ∀ s : State, ∀ p ∈ ([(4, .mfxBind), (6, .mfxVerify), (8, .locSpeed), (10, .locDirection), (12, .locFunction),
      (14, .locReadConfig), (16, .locWriteConfig)] : List (Nat × CommandClass)),
    (s.readFr 1 &&& 0xFE).toNat = p.1 → DecodesTo s p.2 [devIdOf s]

/-- R119: Equipment switch. -/
def Obligations.EquipmentSwitchReport : Prop :=
  ∀ s : State, (s.readFr 1 &&& 0xFE).toNat = 22 →
    DecodesTo s .equipmentSwitch ([devIdOf s, .position (s.readFr 9), .current (s.readFr 10)] ++
      if (s.readFr 4).toNat = 8 then [.swTime (s.readFr 11) (s.readFr 12)] else [])

/-- R120: Track state, and that it is the inverse of SETTRK. -/
def Obligations.TrackStateReportInvertsSettrk : Prop :=
  ∀ s : State, (s.readFr 1 &&& 0xFE).toNat = 34 →
    (∃ dev sub : Half, dev.toNat = (s.readFr 5).toNat * 256 + (s.readFr 6).toNat ∧
      sub.toNat = (s.readFr 7).toNat * 256 + (s.readFr 8).toNat ∧
      DecodesTo s .trackState [devIdOf s, .devNum dev, .contact sub, .stRecent (s.readFr 9), .state (s.readFr 10)]) ∧
    ∀ (dev sub : Half) (state recent : Byte), ∃ t, exec (.settrk dev sub state recent) s = .next t ∧
      DecodesTo t .trackState [devIdOf t, .devNum dev, .contact sub, .stRecent recent, .state state]

/-- R121, R122: Member ping and Statusdata config, and that Member ping alone has a body that depends on the response
flag. -/
def Obligations.PingAndStatusdataReports : Prop :=
  (∀ s : State, (s.readFr 1 &&& 0xFE).toNat = 48 →
    DecodesTo s .memberPing (devIdOf s ::
      if (s.readFr 1).getLsbD 0 = true then
        [.swVer (s.readFr 9) (s.readFr 10), .dbVer (s.readFr 11) (s.readFr 12)] else [])) ∧
  (∀ fr : Frame, (fr[1] &&& 0xFE).toNat ≠ 48 → (report (fr.set 1 (fr[1] ^^^ 1))).drop 4 = (report fr).drop 4) ∧
  ∀ s : State, (s.readFr 1 &&& 0xFE).toNat = 58 →
    DecodesTo s .statusdataConfig
      (if (s.readFr 4).toNat = 5 ∨ (s.readFr 4).toNat = 6 then [devIdOf s] else [])

/-- R126: the number of items of a report, by command. -/
def Obligations.ReportSizeByCommand : Prop :=
  ∀ fr : Frame, let n := (report fr).length
    4 ≤ n ∧ n ≤ 9 ∧
    match (fr[1] &&& 0xFE).toNat with
    | 0 => n = 6 ∨ n = 7
    | 2 => n = 5 ∨ n = 6 ∨ n = 7
    | 4 => n = 5
    | 6 => n = 5
    | 8 => n = 5
    | 10 => n = 5
    | 12 => n = 5
    | 14 => n = 5
    | 16 => n = 5
    | 22 => n = 7 ∨ n = 8
    | 34 => n = 9
    | 48 => n = 5 ∨ n = 7
    | 58 => n = 4 ∨ n = 5
    | _ => n = 4

/-- R127: the list of items and the 22-bit valid mask with its payload wires carry the same report; the kinds of a report
ascend strictly, and bit `k` of the mask is set exactly when kind `k` is present. -/
def Obligations.ReportEqualsWires : Prop :=
  ∀ fr : Frame, reportFromWires (validMask fr) (kindPayload fr) = report fr ∧
    ((report fr).map Item.kind).Pairwise (· < ·) ∧
    ∀ k, k < 22 → ((validMask fr).getLsbD k = true ↔ k ∈ (report fr).map Item.kind)

/-- 95_test_vectors.md S3 for all operands: a frame built for a track-state command or response, with the hash of an
identifier, decodes to what it was built from. -/
def Obligations.BuiltTrackStateFrameDecodes : Prop :=
  ∀ (s : State) (r : Bool) (id : Operand) (dev sub : Half) (state recent : Byte), ∃ t fr,
    runOps s [.fclr, .setcmd 0x22 r 8, .sethash (addressHash id), .settrk dev sub state recent, .decode] = .next t ∧
    halfOf fr[2] fr[3] = addressHash id ∧
    Answers t (.report [.raw fr, .msgType r, .command 34 .trackState, .dlc 8, .devId fr[5] fr[6] fr[7] fr[8],
      .devNum dev, .contact sub, .stRecent recent, .state state])

/-- R161: the first line of the rendered report: 13 two-digit lower-case hexadecimal bytes, each followed by a space. -/
def Obligations.RawLineIsHexDump : Prop :=
  (∀ (fr : Frame) (eol : String), ∃ rest : String, render (report fr) eol = rawText fr ++ eol ++ rest) ∧
  (∀ fr : Frame, (rawText fr).length = 39 ∧
    ∀ i : Fin 13, ((rawText fr).toList.drop (3 * i.val)).take 3 = (hex2 fr[i]).toList ++ [' ']) ∧
  ∀ b : Byte, ∃ hi lo, (hex2 b).toList = [hi, lo] ∧
    "0123456789abcdef".toList[b.toNat / 16]? = some hi ∧ "0123456789abcdef".toList[b.toNat % 16]? = some lo

/-! ## TRACKER unit -/

/-- R141, R142, R143: each of the three set operations, on a channel 1..NCH, writes that channel of `CUR` and nothing
else; TSETON and TSETOFF have exactly the effect of TSETBIT with 1 and 0. -/
def Obligations.SetOperationsWriteOneChannel : Prop :=
  ∀ (s : State) (n : Byte), s.Inv → 1 ≤ n.toNat → n.toNat ≤ s.nch →
    exec (.tseton n) s = exec (.tsetbit n true) s ∧ exec (.tsetoff n) s = exec (.tsetbit n false) s ∧
    ∀ p ∈ [(Instr.tsetbit n true, true), (.tsetbit n false, false), (.tseton n, true), (.tsetoff n, false)],
      ∃ t, exec p.1 s = .next t ∧ Answers t .none ∧ t.curChan n.toNat = p.2 ∧
        (∀ k, k ≠ n.toNat → t.curChan k = s.curChan k) ∧ t.prv = s.prv ∧ (∀ k, t.prvChan k = s.prvChan k) ∧
        KeepsFrame [] s t ∧ KeepsStaging s t ∧ KeepsPort s t

/-- R144: a channel of 0 or above NCH is refused with `ChannelRange`, and nothing changes. -/
def Obligations.ChannelOutOfRangeIsRefused : Prop :=
  ∀ (s : State) (n : Byte) (v : Bool), (n.toNat = 0 ∨ s.nch < n.toNat) →
    ∀ i ∈ [Instr.tsetbit n v, .tseton n, .tsetoff n],
      ∃ t, exec i s = .next t ∧ Raises t .channelRange ∧ KeepsAll s t

/-- R145: every channel takes its bit of the operand; bits at and above NCH are ignored. -/
def Obligations.TsetallWritesEveryChannel : Prop :=
  ∀ (s : State) (bits : Operand), ∃ t, exec (.tsetall bits) s = .next t ∧ Answers t .none ∧
    (∀ k, 1 ≤ k → k ≤ s.nch → t.curChan k = bits.getLsbD (k - 1)) ∧ (∀ k, s.nch < k → t.cur.getLsbD (k - 1) = false) ∧
    t.prv = s.prv ∧ KeepsFrame [] s t ∧ KeepsStaging s t ∧ KeepsPort s t

/-- R146, R147: TCOMMIT makes `PRV` take `CUR`; TRESET zeroes both; CHANGED is 0 after either, and either is idempotent. -/
def Obligations.TcommitAndTresetWriteTracker : Prop :=
  (∀ s : State, ∃ t, exec .tcommit s = .next t ∧ Answers t .none ∧ (∀ k, t.prvChan k = s.curChan k) ∧ t.cur = s.cur ∧
    t.changed = false ∧ KeepsFrame [] s t ∧ KeepsStaging s t ∧ KeepsPort s t ∧ exec .tcommit t = .next t) ∧
  ∀ s : State, ∃ t, exec .treset s = .next t ∧ Answers t .none ∧ t.cur = 0 ∧ t.prv = 0 ∧
    (∀ k, t.curChan k = false ∧ t.prvChan k = false) ∧ t.changed = false ∧
    KeepsFrame [] s t ∧ KeepsStaging s t ∧ KeepsPort s t ∧ exec .treset t = .next t

/-- R148: the triples of exactly the channels that differ, in ascending order; none exactly when CHANGED is 0. -/
def Obligations.TdiffListsChangedChannels : Prop :=
  ∀ s : State, s.Inv → ∃ t l, exec .tdiff s = .next t ∧ Answers t (.changes l) ∧ KeepsAll s t ∧
    (l.map fun c => c.channel.toNat).Pairwise (· < ·) ∧ l.length ≤ s.nch ∧ (l = [] ↔ s.changed = false) ∧
    ∀ c : ChannelChange, c ∈ l ↔ 1 ≤ c.channel.toNat ∧ c.channel.toNat ≤ s.nch ∧
      c.current = s.curChan c.channel.toNat ∧ c.previous = s.prvChan c.channel.toNat ∧ c.current ≠ c.previous

/-- R150, R140: TCHG answers whether some channel 1..NCH differs. Beside it TSTR (44_tracker.md): NCH characters, channel
1 first, from `CUR`. (That they are the bytes 0x30 and 0x31 is the spec's general knowledge and is not stated, log 7.) -/
def Obligations.TchgAndTstrReadTracker : Prop :=
  (∀ s : State, ∃ t b, exec .tchg s = .next t ∧ Answers t (.bit b) ∧ KeepsAll s t ∧
    (b = true ↔ ∃ k, 1 ≤ k ∧ k ≤ s.nch ∧ s.curChan k ≠ s.prvChan k)) ∧
  ∀ s : State, ∃ t l, exec .tstr s = .next t ∧ Answers t (.chars l) ∧ KeepsAll s t ∧ l.length = s.nch ∧
    ∀ k, 1 ≤ k → k ≤ s.nch → l[k - 1]? = some (if s.curChan k then '1' else '0')

/-- R151: after a set and a commit no channel is listed; a set with a different value lists exactly that channel again. -/
def Obligations.CommitThenSetListsThatChannel : Prop :=
  ∀ (s : State) (n : Byte) (v : Bool), s.Inv → 1 ≤ n.toNat → n.toNat ≤ s.nch →
    (∃ t, runOps s [.tsetbit n v, .tcommit, .tdiff] = .next t ∧ Answers t (.changes [])) ∧
    (∃ t, runOps s [.tsetbit n v, .tcommit, .tsetbit n (!v), .tdiff] = .next t ∧
      Answers t (.changes [⟨n, !v, v⟩]))

/-- R152, R3: only TCOMMIT and TRESET write `PRV`, and no operation changes NCH. -/
def Obligations.OnlyCommitAndResetWritePrevious : Prop :=
  ∀ (i : Instr) (s : State), ∃ t, exec i s = .next t ∧ t.nch = s.nch ∧ t.port = s.port ∧
    (i ≠ .tcommit → i ≠ .treset → t.prv = s.prv ∧ ∀ k, t.prvChan k = s.prvChan k)

/-- R19: the tracker operations neither read nor write `FR`, `RXBUF`, `RXLEN`; the others neither read nor write `CUR`,
`PRV`. -/
def Obligations.TrackerAndFrameAreIndependent : Prop :=
  ∀ (i : Instr) (s : State), ∃ t, exec i s = .next t ∧
    (isTracker i = false → t.cur = s.cur ∧ t.prv = s.prv ∧
      ∀ c p, exec i { s with cur := c, prv := p } = .next { t with cur := c, prv := p }) ∧
    (isTracker i = true → t.fr = s.fr ∧ t.rxbuf = s.rxbuf ∧ t.rxlen = s.rxlen ∧
      ∀ fr rb n, exec i { s with fr := fr, rxbuf := rb, rxlen := n } =
        .next { t with fr := fr, rxbuf := rb, rxlen := n })

/-- R38: the reading operations change no state, and twice in a row they answer the same. -/
def Obligations.QueriesChangeNoState : Prop :=
  ∀ (i : Instr) (s : State), isQuery i = true →
    ∃ t a u, exec i s = .next t ∧ t.resp = some a ∧ KeepsAll s t ∧ exec i t = .next u ∧ u.resp = some a ∧ KeepsAll t u
end

