-- ==== Sys2Proof/Laws/Encoding.lean ====
section
/-! SUPPORT. The bits of an operation word, said once: opcode, operand field, and the operands inside it (R45, R46). -/

namespace Sys2Proof

theorem getLsbD_wordOf (opc : Byte) (p : Operand) (i : Nat) :
    (wordOf opc p).getLsbD i = if i < 64 then p.getLsbD i else opc.getLsbD (i - 64) :=
  BitVec.getLsbD_append

/-- The opcode of a word is the byte it was made with (R45). -/
@[simp] theorem opcodeOf_wordOf (opc : Byte) (p : Operand) : opcodeOf (wordOf opc p) = opc := by
  apply BitVec.eq_of_getLsbD_eq
  intro i hi
  simp [opcodeOf, getLsbD_wordOf, hi]

/-- The operand field of a word is the field it was made with (R45). -/
@[simp] theorem operandOf_wordOf (opc : Byte) (p : Operand) : operandOf (wordOf opc p) = p := by
  apply BitVec.eq_of_getLsbD_eq
  intro i hi
  simp [operandOf, getLsbD_wordOf, hi]

/-- A word is its opcode and its operand field (R45). -/
theorem wordOf_parts (w : OpWord) : wordOf (opcodeOf w) (operandOf w) = w := by
  apply BitVec.eq_of_getLsbD_eq
  intro i hi
  rw [getLsbD_wordOf]
  by_cases h : i < 64
  · simp [operandOf, h]
  · simp [opcodeOf, h, show i - 64 < 8 by omega, show 64 + (i - 64) = i by omega]

/-- Decoding a word, in terms of its opcode and operand field (R48). -/
theorem decode_wordOf (opc : Byte) (p : Operand) :
    decode (wordOf opc p) = match opcodeMap opc.toNat p with
      | none => .error .reservedOpcode
      | some (reserved, i) => if p &&& reserved = 0#64 then .ok i else .error .reservedBit := by
  cases h : opcodeMap opc.toNat p <;> simp [decode, h]

/-! ## The bits of each operand layout -/

theorem getLsbD_oneByte (b : Byte) (i : Nat) : (oneByte b).getLsbD i = b.getLsbD i := by
  refine (BitVec.getLsbD_append (x := 0#56) (y := b)).trans ?_
  by_cases h : i < 8
  · simp [h]
  · simp [h, BitVec.getLsbD_of_ge b i (by omega)]

theorem getLsbD_oneHalf (h : Half) (i : Nat) : (oneHalf h).getLsbD i = h.getLsbD i := by
  refine (BitVec.getLsbD_append (x := 0#48) (y := h)).trans ?_
  by_cases hi : i < 16
  · simp [hi]
  · simp [hi, BitVec.getLsbD_of_ge h i (by omega)]

theorem getLsbD_fieldAndByte (f v : Byte) (i : Nat) :
    (fieldAndByte f v).getLsbD i = if i < 8 then v.getLsbD i else f.getLsbD (i - 8) := by
  refine (BitVec.getLsbD_append (x := 0#48 ++ f) (y := v)).trans ?_
  split
  · rfl
  · refine (BitVec.getLsbD_append (x := 0#48) (y := f)).trans ?_
    by_cases h : i - 8 < 8
    · simp [h]
    · simp [h, BitVec.getLsbD_of_ge f (i - 8) (by omega)]

theorem getLsbD_twoHalves (dev sub : Half) (i : Nat) :
    (twoHalves dev sub).getLsbD i = if i < 16 then sub.getLsbD i else dev.getLsbD (i - 16) := by
  refine (BitVec.getLsbD_append (x := 0#32 ++ dev) (y := sub)).trans ?_
  split
  · rfl
  · refine (BitVec.getLsbD_append (x := 0#32) (y := dev)).trans ?_
    by_cases h : i - 16 < 16
    · simp [h]
    · simp [h, BitVec.getLsbD_of_ge dev (i - 16) (by omega)]

theorem getLsbD_trackOperand (dev sub : Half) (state recent : Byte) (i : Nat) :
    (trackOperand dev sub state recent).getLsbD i =
      if i < 8 then recent.getLsbD i else if i < 16 then state.getLsbD (i - 8)
      else if i < 32 then sub.getLsbD (i - 16) else dev.getLsbD (i - 32) := by
  refine (BitVec.getLsbD_append (x := 0#16 ++ dev ++ sub ++ state) (y := recent)).trans ?_
  split
  · rfl
  · refine (BitVec.getLsbD_append (x := 0#16 ++ dev ++ sub) (y := state)).trans ?_
    rw [if_congr (show i - 8 < 8 ↔ i < 16 by omega) rfl rfl]
    split
    · rfl
    · rw [show i - 8 - 8 = i - 16 by omega]
      refine (BitVec.getLsbD_append (x := 0#16 ++ dev) (y := sub)).trans ?_
      rw [if_congr (show i - 16 < 16 ↔ i < 32 by omega) rfl rfl]
      split
      · rfl
      · rw [show i - 16 - 16 = i - 32 by omega]
        refine (BitVec.getLsbD_append (x := 0#16) (y := dev)).trans ?_
        by_cases h : i - 32 < 16
        · simp [h]
        · simp [h, BitVec.getLsbD_of_ge dev (i - 32) (by omega)]

theorem getLsbD_commandOperand (code : Byte) (r : Bool) (dlc : Byte) (i : Nat) :
    (commandOperand code r dlc).getLsbD i =
      if i < 8 then code.getLsbD i else if i = 8 then r
      else if i < 16 then false else dlc.getLsbD (i - 16) := by
  refine (BitVec.getLsbD_append (x := 0#40 ++ dlc ++ 0#7 ++ BitVec.ofBool r) (y := code)).trans ?_
  split
  · rfl
  · refine (BitVec.getLsbD_append (x := 0#40 ++ dlc ++ 0#7) (y := BitVec.ofBool r)).trans ?_
    rw [if_congr (show i - 8 < 1 ↔ i = 8 by omega) rfl rfl]
    split
    · simp [show i - 8 = 0 by omega]
    · rw [show i - 8 - 1 = i - 9 by omega]
      refine (BitVec.getLsbD_append (x := 0#40 ++ dlc) (y := 0#7)).trans ?_
      rw [if_congr (show i - 9 < 7 ↔ i < 16 by omega) rfl rfl]
      split
      · simp
      · rw [show i - 9 - 7 = i - 16 by omega]
        refine (BitVec.getLsbD_append (x := 0#40) (y := dlc)).trans ?_
        by_cases h : i - 16 < 8
        · simp [h]
        · simp [h, BitVec.getLsbD_of_ge dlc (i - 16) (by omega)]

theorem getLsbD_channelAndBit (n : Byte) (v : Bool) (i : Nat) :
    (channelAndBit n v).getLsbD i = if i = 0 then v else if i < 8 then false else n.getLsbD (i - 8) := by
  refine (BitVec.getLsbD_append (x := 0#48 ++ n ++ 0#7) (y := BitVec.ofBool v)).trans ?_
  rw [if_congr (show i < 1 ↔ i = 0 by omega) rfl rfl]
  split
  · simp [*]
  · refine (BitVec.getLsbD_append (x := 0#48 ++ n) (y := 0#7)).trans ?_
    rw [if_congr (show i - 1 < 7 ↔ i < 8 by omega) rfl rfl]
    split
    · simp
    · rw [show i - 1 - 7 = i - 8 by omega]
      refine (BitVec.getLsbD_append (x := 0#48) (y := n)).trans ?_
      by_cases h : i - 8 < 8
      · simp [h]
      · simp [h, BitVec.getLsbD_of_ge n (i - 8) (by omega)]

/-! ## Fields and reserved bits -/

theorem getLsbD_byteField (p : Operand) (lo i : Nat) :
    (byteField p lo).getLsbD i = (decide (i < 8) && p.getLsbD (lo + i)) := by simp [byteField]

theorem getLsbD_halfField (p : Operand) (lo i : Nat) :
    (halfField p lo).getLsbD i = (decide (i < 16) && p.getLsbD (lo + i)) := by simp [halfField]

/-- A field of 8 bits, bit by bit. -/
theorem byteField_eq {p : Operand} {lo : Nat} {b : Byte} (h : ∀ i, i < 8 → p.getLsbD (lo + i) = b.getLsbD i) :
    byteField p lo = b := by
  apply BitVec.eq_of_getLsbD_eq
  intro i hi
  rw [getLsbD_byteField, h i hi, decide_eq_true hi, Bool.true_and]

/-- A field of 16 bits, bit by bit. -/
theorem halfField_eq {p : Operand} {lo : Nat} {b : Half} (h : ∀ i, i < 16 → p.getLsbD (lo + i) = b.getLsbD i) :
    halfField p lo = b := by
  apply BitVec.eq_of_getLsbD_eq
  intro i hi
  rw [getLsbD_halfField, h i hi, decide_eq_true hi, Bool.true_and]

/-- No reserved bit is set (R49). -/
theorem and_eq_zero_iff (p reserved : Operand) :
    p &&& reserved = 0#64 ↔ ∀ i, i < 64 → reserved.getLsbD i = true → p.getLsbD i = false := by
  constructor
  · intro h i _ hr
    have := congrArg (fun x => BitVec.getLsbD x i) h
    simpa [hr] using this
  · intro h
    apply BitVec.eq_of_getLsbD_eq
    intro i hi
    by_cases hr : reserved.getLsbD i = true
    · simp [h i hi hr]
    · simp [hr]

/-- A row whose mask covers the opcode and whose pattern has no operand bits admits the words of its opcode with no
reserved bit set (R50). -/
theorem admits_iff {row : OpcodeRow} (hm : opcodeOf row.mask = 0xFF) (hp : operandOf row.pattern = 0) (w : OpWord) :
    row.admits w = true ↔ opcodeOf w = opcodeOf row.pattern ∧ operandOf w &&& operandOf row.mask = 0#64 := by
  have key : w &&& row.mask = wordOf (opcodeOf w) (operandOf w &&& operandOf row.mask) := by
    apply BitVec.eq_of_getLsbD_eq
    intro i hi
    rw [getLsbD_wordOf, BitVec.getLsbD_and]
    have hmi : 64 ≤ i → row.mask.getLsbD i = true := by
      intro h
      have := congrArg (fun x => BitVec.getLsbD x (i - 64)) hm
      have h8 : i - 64 < 8 := by omega
      simp only [opcodeOf, BitVec.getLsbD_extractLsb', h8, decide_true, Bool.true_and,
        show 64 + (i - 64) = i by omega] at this
      rw [this]
      have : ∀ j, j < 8 → (0xFF : Byte).getLsbD j = true := by decide
      exact this _ h8
    split
    · rename_i h; simp [operandOf, h]
    · rename_i h
      simp [hmi (by omega), opcodeOf, show i - 64 < 8 by omega, show 64 + (i - 64) = i by omega]
  rw [OpcodeRow.admits, decide_eq_true_iff, key]
  constructor
  · intro h
    rw [← h]; simp only [opcodeOf_wordOf, true_and]
    have := congrArg operandOf h
    simpa [hp] using this
  · rintro ⟨h1, h2⟩
    have := wordOf_parts row.pattern
    rw [hp] at this
    rw [h1, h2]
    exact this

/-- Every row of the table is of that form (R50). -/
theorem opcodeTable_form : ∀ row ∈ opcodeTable, opcodeOf row.mask = 0xFF ∧ operandOf row.pattern = 0 := by decide

/-! The reserved bits of each operand form as a condition on bit numbers (R50). -/

/-- The operand has no bit that is reserved, from the condition on the bits of the operand. -/
theorem and_reserved_eq_zero {p reserved : Operand} {P : Nat → Prop} [DecidablePred P]
    (hr : ∀ i, i < 64 → reserved.getLsbD i = decide (P i)) (h : ∀ i, i < 64 → P i → p.getLsbD i = false) :
    p &&& reserved = 0#64 := by
  rw [and_eq_zero_iff]
  intro i hi h'
  rw [hr i hi] at h'
  exact h i hi (of_decide_eq_true h')

/-- The reserved bits of an operand that passes the check are 0. -/
theorem reserved_bit_eq_false {p reserved : Operand} {P : Nat → Prop} [DecidablePred P]
    (hr : ∀ i, i < 64 → reserved.getLsbD i = decide (P i)) (h : p &&& reserved = 0#64) (i : Nat) (hi : P i) :
    p.getLsbD i = false := by
  by_cases h64 : i < 64
  · exact (and_eq_zero_iff p reserved).mp h i h64 (by rw [hr i h64]; exact decide_eq_true hi)
  · exact BitVec.getLsbD_of_ge p i (by omega)

theorem reserved_above_8 : ∀ i, i < 64 → (0xFFFFFFFFFFFFFF00#64).getLsbD i = decide (8 ≤ i) := by decide

theorem reserved_above_16 : ∀ i, i < 64 → (0xFFFFFFFFFFFF0000#64).getLsbD i = decide (16 ≤ i) := by decide

theorem reserved_above_32 : ∀ i, i < 64 → (0xFFFFFFFF00000000#64).getLsbD i = decide (32 ≤ i) := by decide

theorem reserved_above_48 : ∀ i, i < 64 → (0xFFFF000000000000#64).getLsbD i = decide (48 ≤ i) := by decide

theorem reserved_setcmd : ∀ i, i < 64 →
    (0xFFFFFFFFFF00FE00#64).getLsbD i = decide ((9 ≤ i ∧ i < 16) ∨ 24 ≤ i) := by decide

theorem reserved_tsetbit : ∀ i, i < 64 →
    (0xFFFFFFFFFFFF00FE#64).getLsbD i = decide ((1 ≤ i ∧ i < 8) ∨ 16 ≤ i) := by decide

end Sys2Proof
end

