-- ==== Sys2Proof/Laws/State.lean ====
section
/-! SUPPORT. For each update of State one lemma for each field, true by rfl, so that no later proof unfolds a record
update. -/

namespace Sys2Proof.Machine

variable (s : State)

@[simp] theorem State.respond_fr (r : Result) : (s.respond r).fr = s.fr := rfl
@[simp] theorem State.respond_rxbuf (r : Result) : (s.respond r).rxbuf = s.rxbuf := rfl
@[simp] theorem State.respond_rxlen (r : Result) : (s.respond r).rxlen = s.rxlen := rfl
@[simp] theorem State.respond_cur (r : Result) : (s.respond r).cur = s.cur := rfl
@[simp] theorem State.respond_prv (r : Result) : (s.respond r).prv = s.prv := rfl
@[simp] theorem State.respond_nch (r : Result) : (s.respond r).nch = s.nch := rfl
@[simp] theorem State.respond_port (r : Result) : (s.respond r).port = s.port := rfl
@[simp] theorem State.respond_resp (r : Result) : (s.respond r).resp = some (.ok r) := rfl

@[simp] theorem State.raise_fr (e : ErrorKind) : (s.raise e).fr = s.fr := rfl
@[simp] theorem State.raise_rxbuf (e : ErrorKind) : (s.raise e).rxbuf = s.rxbuf := rfl
@[simp] theorem State.raise_rxlen (e : ErrorKind) : (s.raise e).rxlen = s.rxlen := rfl
@[simp] theorem State.raise_cur (e : ErrorKind) : (s.raise e).cur = s.cur := rfl
@[simp] theorem State.raise_prv (e : ErrorKind) : (s.raise e).prv = s.prv := rfl
@[simp] theorem State.raise_nch (e : ErrorKind) : (s.raise e).nch = s.nch := rfl
@[simp] theorem State.raise_port (e : ErrorKind) : (s.raise e).port = s.port := rfl
@[simp] theorem State.raise_resp (e : ErrorKind) : (s.raise e).resp = some (.error e) := rfl

@[simp] theorem State.writeFr_fr (i : Fin 13) (v : Byte) : (s.writeFr i v).fr = s.fr.set i.val v i.isLt := rfl
@[simp] theorem State.writeFr_rxbuf (i : Fin 13) (v : Byte) : (s.writeFr i v).rxbuf = s.rxbuf := rfl
@[simp] theorem State.writeFr_rxlen (i : Fin 13) (v : Byte) : (s.writeFr i v).rxlen = s.rxlen := rfl
@[simp] theorem State.writeFr_cur (i : Fin 13) (v : Byte) : (s.writeFr i v).cur = s.cur := rfl
@[simp] theorem State.writeFr_prv (i : Fin 13) (v : Byte) : (s.writeFr i v).prv = s.prv := rfl
@[simp] theorem State.writeFr_nch (i : Fin 13) (v : Byte) : (s.writeFr i v).nch = s.nch := rfl
@[simp] theorem State.writeFr_port (i : Fin 13) (v : Byte) : (s.writeFr i v).port = s.port := rfl
@[simp] theorem State.writeFr_resp (i : Fin 13) (v : Byte) : (s.writeFr i v).resp = s.resp := rfl

@[simp] theorem State.loadFrame_fr (fr : Frame) : (s.loadFrame fr).fr = fr := rfl
@[simp] theorem State.loadFrame_rxbuf (fr : Frame) : (s.loadFrame fr).rxbuf = s.rxbuf := rfl
@[simp] theorem State.loadFrame_rxlen (fr : Frame) : (s.loadFrame fr).rxlen = s.rxlen := rfl
@[simp] theorem State.loadFrame_cur (fr : Frame) : (s.loadFrame fr).cur = s.cur := rfl
@[simp] theorem State.loadFrame_prv (fr : Frame) : (s.loadFrame fr).prv = s.prv := rfl
@[simp] theorem State.loadFrame_nch (fr : Frame) : (s.loadFrame fr).nch = s.nch := rfl
@[simp] theorem State.loadFrame_port (fr : Frame) : (s.loadFrame fr).port = s.port := rfl
@[simp] theorem State.loadFrame_resp (fr : Frame) : (s.loadFrame fr).resp = s.resp := rfl

@[simp] theorem State.writeHalf_fr (hi lo : Fin 13) (h : Half) : (s.writeHalf hi lo h).fr = (s.fr.set hi.val (hiByte h) hi.isLt).set lo.val (loByte h) lo.isLt := rfl
@[simp] theorem State.writeHalf_rxbuf (hi lo : Fin 13) (h : Half) : (s.writeHalf hi lo h).rxbuf = s.rxbuf := rfl
@[simp] theorem State.writeHalf_rxlen (hi lo : Fin 13) (h : Half) : (s.writeHalf hi lo h).rxlen = s.rxlen := rfl
@[simp] theorem State.writeHalf_cur (hi lo : Fin 13) (h : Half) : (s.writeHalf hi lo h).cur = s.cur := rfl
@[simp] theorem State.writeHalf_prv (hi lo : Fin 13) (h : Half) : (s.writeHalf hi lo h).prv = s.prv := rfl
@[simp] theorem State.writeHalf_nch (hi lo : Fin 13) (h : Half) : (s.writeHalf hi lo h).nch = s.nch := rfl
@[simp] theorem State.writeHalf_port (hi lo : Fin 13) (h : Half) : (s.writeHalf hi lo h).port = s.port := rfl
@[simp] theorem State.writeHalf_resp (hi lo : Fin 13) (h : Half) : (s.writeHalf hi lo h).resp = s.resp := rfl

@[simp] theorem State.setRxlen_fr (v : BitVec 8) : (s.setRxlen v).fr = s.fr := rfl
@[simp] theorem State.setRxlen_rxbuf (v : BitVec 8) : (s.setRxlen v).rxbuf = s.rxbuf := rfl
@[simp] theorem State.setRxlen_rxlen (v : BitVec 8) : (s.setRxlen v).rxlen = v := rfl
@[simp] theorem State.setRxlen_cur (v : BitVec 8) : (s.setRxlen v).cur = s.cur := rfl
@[simp] theorem State.setRxlen_prv (v : BitVec 8) : (s.setRxlen v).prv = s.prv := rfl
@[simp] theorem State.setRxlen_nch (v : BitVec 8) : (s.setRxlen v).nch = s.nch := rfl
@[simp] theorem State.setRxlen_port (v : BitVec 8) : (s.setRxlen v).port = s.port := rfl
@[simp] theorem State.setRxlen_resp (v : BitVec 8) : (s.setRxlen v).resp = s.resp := rfl

@[simp] theorem State.setCur_fr (r : Lanes) : (s.setCur r).fr = s.fr := rfl
@[simp] theorem State.setCur_rxbuf (r : Lanes) : (s.setCur r).rxbuf = s.rxbuf := rfl
@[simp] theorem State.setCur_rxlen (r : Lanes) : (s.setCur r).rxlen = s.rxlen := rfl
@[simp] theorem State.setCur_cur (r : Lanes) : (s.setCur r).cur = r := rfl
@[simp] theorem State.setCur_prv (r : Lanes) : (s.setCur r).prv = s.prv := rfl
@[simp] theorem State.setCur_nch (r : Lanes) : (s.setCur r).nch = s.nch := rfl
@[simp] theorem State.setCur_port (r : Lanes) : (s.setCur r).port = s.port := rfl
@[simp] theorem State.setCur_resp (r : Lanes) : (s.setCur r).resp = s.resp := rfl

@[simp] theorem State.setPrv_fr (r : Lanes) : (s.setPrv r).fr = s.fr := rfl
@[simp] theorem State.setPrv_rxbuf (r : Lanes) : (s.setPrv r).rxbuf = s.rxbuf := rfl
@[simp] theorem State.setPrv_rxlen (r : Lanes) : (s.setPrv r).rxlen = s.rxlen := rfl
@[simp] theorem State.setPrv_cur (r : Lanes) : (s.setPrv r).cur = s.cur := rfl
@[simp] theorem State.setPrv_prv (r : Lanes) : (s.setPrv r).prv = r := rfl
@[simp] theorem State.setPrv_nch (r : Lanes) : (s.setPrv r).nch = s.nch := rfl
@[simp] theorem State.setPrv_port (r : Lanes) : (s.setPrv r).port = s.port := rfl
@[simp] theorem State.setPrv_resp (r : Lanes) : (s.setPrv r).resp = s.resp := rfl

@[simp] theorem State.presentFirst_fr (w : OpWord) : (s.presentFirst w).fr = s.fr := rfl
@[simp] theorem State.presentFirst_rxbuf (w : OpWord) : (s.presentFirst w).rxbuf = s.rxbuf := rfl
@[simp] theorem State.presentFirst_rxlen (w : OpWord) : (s.presentFirst w).rxlen = s.rxlen := rfl
@[simp] theorem State.presentFirst_cur (w : OpWord) : (s.presentFirst w).cur = s.cur := rfl
@[simp] theorem State.presentFirst_prv (w : OpWord) : (s.presentFirst w).prv = s.prv := rfl
@[simp] theorem State.presentFirst_nch (w : OpWord) : (s.presentFirst w).nch = s.nch := rfl
@[simp] theorem State.presentFirst_port (w : OpWord) : (s.presentFirst w).port = w :: s.port := rfl
@[simp] theorem State.presentFirst_resp (w : OpWord) : (s.presentFirst w).resp = s.resp := rfl

@[simp] theorem State.present_fr (ws : List OpWord) : (s.present ws).fr = s.fr := rfl
@[simp] theorem State.present_rxbuf (ws : List OpWord) : (s.present ws).rxbuf = s.rxbuf := rfl
@[simp] theorem State.present_rxlen (ws : List OpWord) : (s.present ws).rxlen = s.rxlen := rfl
@[simp] theorem State.present_cur (ws : List OpWord) : (s.present ws).cur = s.cur := rfl
@[simp] theorem State.present_prv (ws : List OpWord) : (s.present ws).prv = s.prv := rfl
@[simp] theorem State.present_nch (ws : List OpWord) : (s.present ws).nch = s.nch := rfl
@[simp] theorem State.present_port (ws : List OpWord) : (s.present ws).port = s.port ++ ws := rfl
@[simp] theorem State.present_resp (ws : List OpWord) : (s.present ws).resp = s.resp := rfl

@[simp] theorem State.writeDevice_fr (dev sub : Half) : (s.writeDevice dev sub).fr = ((s.writeHalf 5 6 dev).writeHalf 7 8 sub).fr := rfl
@[simp] theorem State.writeDevice_rxbuf (dev sub : Half) : (s.writeDevice dev sub).rxbuf = s.rxbuf := rfl
@[simp] theorem State.writeDevice_rxlen (dev sub : Half) : (s.writeDevice dev sub).rxlen = s.rxlen := rfl
@[simp] theorem State.writeDevice_cur (dev sub : Half) : (s.writeDevice dev sub).cur = s.cur := rfl
@[simp] theorem State.writeDevice_prv (dev sub : Half) : (s.writeDevice dev sub).prv = s.prv := rfl
@[simp] theorem State.writeDevice_nch (dev sub : Half) : (s.writeDevice dev sub).nch = s.nch := rfl
@[simp] theorem State.writeDevice_port (dev sub : Half) : (s.writeDevice dev sub).port = s.port := rfl
@[simp] theorem State.writeDevice_resp (dev sub : Half) : (s.writeDevice dev sub).resp = s.resp := rfl

@[simp] theorem State.shiftState_fr (new : Byte) : (s.shiftState new).fr = ((s.writeFr 9 (s.readFr 10)).writeFr 10 new).fr := rfl
@[simp] theorem State.shiftState_rxbuf (new : Byte) : (s.shiftState new).rxbuf = s.rxbuf := rfl
@[simp] theorem State.shiftState_rxlen (new : Byte) : (s.shiftState new).rxlen = s.rxlen := rfl
@[simp] theorem State.shiftState_cur (new : Byte) : (s.shiftState new).cur = s.cur := rfl
@[simp] theorem State.shiftState_prv (new : Byte) : (s.shiftState new).prv = s.prv := rfl
@[simp] theorem State.shiftState_nch (new : Byte) : (s.shiftState new).nch = s.nch := rfl
@[simp] theorem State.shiftState_port (new : Byte) : (s.shiftState new).port = s.port := rfl
@[simp] theorem State.shiftState_resp (new : Byte) : (s.shiftState new).resp = s.resp := rfl

/-! The staging of a byte, whose shape depends on the count. -/

@[simp] theorem State.stage_fr (b : Byte) : (s.stage b).fr = s.fr := by unfold State.stage; split <;> rfl
@[simp] theorem State.stage_cur (b : Byte) : (s.stage b).cur = s.cur := by unfold State.stage; split <;> rfl
@[simp] theorem State.stage_prv (b : Byte) : (s.stage b).prv = s.prv := by unfold State.stage; split <;> rfl
@[simp] theorem State.stage_nch (b : Byte) : (s.stage b).nch = s.nch := by unfold State.stage; split <;> rfl
@[simp] theorem State.stage_port (b : Byte) : (s.stage b).port = s.port := by unfold State.stage; split <;> rfl
@[simp] theorem State.stage_resp (b : Byte) : (s.stage b).resp = s.resp := by unfold State.stage; split <;> rfl
@[simp] theorem State.stage_rxlen (b : Byte) : (s.stage b).rxlen = rxlenNext s.rxlen := by unfold State.stage; split <;> rfl

/-! The reset state. -/

@[simp] theorem State.resetFor_fr (n : Nat) : (State.resetFor n).fr = Vector.replicate 13 0 := rfl
@[simp] theorem State.resetFor_rxbuf (n : Nat) : (State.resetFor n).rxbuf = Vector.replicate 13 0 := rfl
@[simp] theorem State.resetFor_rxlen (n : Nat) : (State.resetFor n).rxlen = 0#8 := rfl
@[simp] theorem State.resetFor_cur (n : Nat) : (State.resetFor n).cur = 0#64 := rfl
@[simp] theorem State.resetFor_prv (n : Nat) : (State.resetFor n).prv = 0#64 := rfl
@[simp] theorem State.resetFor_nch (n : Nat) : (State.resetFor n).nch = n := rfl
@[simp] theorem State.resetFor_port (n : Nat) : (State.resetFor n).port = [] := rfl
@[simp] theorem State.resetFor_resp (n : Nat) : (State.resetFor n).resp = none := rfl

end Sys2Proof.Machine
end

