-- ==== Sys2Proof/Laws/Ops.lean ====
section
/-! SUPPORT. What each shared operation does, said once: byte spaces, staging, channels, flag. -/

namespace Sys2Proof.Machine

/-! ## Byte spaces -/

theorem spaceIndex_of_lt {a : Nat} (h : a < 13) : spaceIndex a = some ⟨a, h⟩ := dif_pos h

theorem spaceIndex_of_ge {a : Nat} (h : 13 ≤ a) : spaceIndex a = none := dif_neg (by omega)

theorem memRead_of_lt (s : State) (sp : Space) {a : Nat} (h : a < 13) :
    s.memRead sp a = some ((s.space sp)[a]) := by simp [State.memRead, spaceIndex_of_lt h]

/-- Outside 0..12 there is no byte (R32). -/
theorem memRead_of_ge (s : State) (sp : Space) {a : Nat} (h : 13 ≤ a) : s.memRead sp a = none := by
  simp [State.memRead, spaceIndex_of_ge h]

/-- Reading depends on the space alone. -/
theorem memRead_congr {s t : State} {sp : Space} (h : t.space sp = s.space sp) (a : Nat) :
    t.memRead sp a = s.memRead sp a := by simp [State.memRead, h]

@[simp] theorem space_fr (s : State) : s.space .fr = s.fr := rfl

@[simp] theorem space_rxbuf (s : State) : s.space .rxbuf = s.rxbuf := rfl

/-- A register as a byte of its space. -/
theorem memRead_fr (s : State) (i : Fin 13) : s.memRead .fr i = some (s.readFr i) := memRead_of_lt s .fr i.isLt

theorem readFr_writeFr (s : State) (i j : Fin 13) (v : Byte) :
    (s.writeFr i v).readFr j = if i = j then v else s.readFr j := by
  simp [State.readFr, Vector.getElem_set, Fin.ext_iff]

/-- A write reads back, and leaves every other byte alone. -/
theorem memRead_writeFr (s : State) (i : Fin 13) (v : Byte) (a : Nat) :
    (s.writeFr i v).memRead .fr a = if i.val = a then some v else s.memRead .fr a := by
  by_cases h : a < 13
  · simp only [memRead_of_lt _ _ h, space_fr, State.writeFr_fr, Vector.getElem_set]
    split <;> rfl
  · rw [if_neg (by omega), memRead_of_ge _ _ (by omega), memRead_of_ge _ _ (by omega)]

@[simp] theorem memRead_rxbuf_writeFr (s : State) (i : Fin 13) (v : Byte) (a : Nat) :
    (s.writeFr i v).memRead .rxbuf a = s.memRead .rxbuf a := rfl

@[simp] theorem memRead_respond (s : State) (r : Result) (sp : Space) (a : Nat) :
    (s.respond r).memRead sp a = s.memRead sp a := by cases sp <;> rfl

@[simp] theorem memRead_raise (s : State) (e : ErrorKind) (sp : Space) (a : Nat) :
    (s.raise e).memRead sp a = s.memRead sp a := by cases sp <;> rfl

@[simp] theorem memRead_setRxlen (s : State) (v : BitVec 8) (sp : Space) (a : Nat) :
    (s.setRxlen v).memRead sp a = s.memRead sp a := by cases sp <;> rfl

@[simp] theorem memRead_setCur (s : State) (r : Lanes) (sp : Space) (a : Nat) :
    (s.setCur r).memRead sp a = s.memRead sp a := by cases sp <;> rfl

@[simp] theorem memRead_setPrv (s : State) (r : Lanes) (sp : Space) (a : Nat) :
    (s.setPrv r).memRead sp a = s.memRead sp a := by cases sp <;> rfl

@[simp] theorem memRead_rxbuf_loadFrame (s : State) (fr : Frame) (a : Nat) :
    (s.loadFrame fr).memRead .rxbuf a = s.memRead .rxbuf a := rfl

/-- `MemWrite` of the space `FR` is the register write (R30). -/
theorem memWrite_fr (s : State) (i : Fin 13) (v : Byte) : s.memWrite .fr i v = some (s.writeFr i v) := by
  simp [State.memWrite, spaceIndex_of_lt i.isLt, State.writeFr]

/-! ## Staging -/

theorem rxlenNext_toNat (n : BitVec 8) : (rxlenNext n).toNat = min (n.toNat + 1) 255 := by
  simp only [rxlenNext, BitVec.toNat_ofNat]; omega

/-- What staging leaves in `RXBUF`: the byte at the address `RXLEN` if that is below 13, the rest alone (R70). -/
theorem memRead_stage (s : State) (b : Byte) (a : Nat) :
    (s.stage b).memRead .rxbuf a = if a = s.rxlen.toNat ∧ a < 13 then some b else s.memRead .rxbuf a := by
  by_cases h : s.rxlen.toNat < 13
  · by_cases ha : a < 13
    · simp only [memRead_of_lt _ _ ha, space_rxbuf, State.stage, spaceIndex_of_lt h, Vector.getElem_set]
      by_cases e : a = s.rxlen.toNat
      · simp [← e, ha]
      · simp [e, Ne.symm e]
    · rw [if_neg (by omega), memRead_of_ge _ _ (by omega), memRead_of_ge _ _ (by omega)]
  · rw [if_neg (by omega)]
    refine memRead_congr ?_ a
    simp [State.stage, spaceIndex_of_ge (Nat.not_lt.mp h)]

@[simp] theorem memRead_fr_stage (s : State) (b : Byte) (a : Nat) :
    (s.stage b).memRead .fr a = s.memRead .fr a := memRead_congr (by simp) a

/-! ## Channels -/

theorem laneOf_of_not {nch k : Nat} (r : Lanes) (h : ¬ (1 ≤ k ∧ k ≤ nch)) : laneOf nch r k = false := by
  simp [laneOf, h]

theorem laneOf_of {nch k : Nat} (r : Lanes) (h1 : 1 ≤ k) (h2 : k ≤ nch) : laneOf nch r k = r.getLsbD (k - 1) := by
  simp [laneOf, h1, h2]

/-- One bit of a register after a channel is set. -/
theorem getLsbD_setLane (r : Lanes) {k : Nat} (v : Bool) (hk : k ≤ 64) (h1 : 1 ≤ k) (j : Nat) :
    (setLane r k v).getLsbD j = if j = k - 1 then v else r.getLsbD j := by
  have hb : (1#64 <<< (k - 1)).getLsbD j = decide (j = k - 1) := by
    rw [BitVec.getLsbD_shiftLeft, BitVec.getLsbD_one]
    by_cases h : j = k - 1
    · subst h; simp; omega
    · by_cases h' : j < k - 1
      · simp [h, h']
      · simp [h]; omega
  unfold setLane
  by_cases h : j = k - 1
  · cases v
    · simp [h, BitVec.getLsbD_and]
    · simp [h, BitVec.getLsbD_or]; omega
  · cases v
    · simp only [Bool.false_eq_true, if_false, BitVec.getLsbD_and, BitVec.getLsbD_not, hb, h, decide_false,
        Bool.not_false, Bool.and_true]
      by_cases h64 : j < 64
      · simp [h64]
      · simp [h64, BitVec.getLsbD_of_ge r j (by omega)]
    · simp [BitVec.getLsbD_or, hb, h]

/-- A channel after one is set: the set one has the value, every other is as before (R141). -/
theorem laneOf_setLane {nch : Nat} (hn : nch ≤ 64) (r : Lanes) {n : Nat} (v : Bool) (h1 : 1 ≤ n) (h2 : n ≤ nch)
    (k : Nat) : laneOf nch (setLane r n v) k = if k = n then v else laneOf nch r k := by
  unfold laneOf
  rw [getLsbD_setLane r v (by omega) h1]
  by_cases h : k = n
  · subst h; simp [h1, h2]
  · by_cases h0 : 1 ≤ k
    · simp [h, show ¬ (k - 1 = n - 1) by omega]
    · simp [h, h0]

theorem getLsbD_laneMask (nch j : Nat) : (laneMask nch).getLsbD j = (decide (j < nch) && decide (j < 64)) := by
  simp [laneMask, BitVec.getLsbD_ofNat, Nat.testBit_two_pow_sub_one, Bool.and_comm]

/-- A channel of a packed number (R145). -/
theorem laneOf_mask (nch : Nat) (bits : Operand) (k : Nat) :
    laneOf nch (bits &&& laneMask nch) k = (decide (1 ≤ k ∧ k ≤ nch) && bits.getLsbD (k - 1)) := by
  unfold laneOf
  rw [BitVec.getLsbD_and, getLsbD_laneMask]
  by_cases h : 1 ≤ k ∧ k ≤ nch
  · by_cases h64 : k - 1 < 64
    · simp [h, h64]; omega
    · simp [h64, BitVec.getLsbD_of_ge bits (k - 1) (by omega)]
  · simp [h]

@[simp] theorem laneOf_zero (nch k : Nat) : laneOf nch 0#64 k = false := by simp [laneOf]

/-- No bit at or above NCH: the invariant of a tracker register, bit by bit. -/
theorem shiftRight_eq_zero_iff (r : Lanes) (n : Nat) : r >>> n = 0 ↔ ∀ j, n ≤ j → r.getLsbD j = false := by
  constructor
  · intro h j hj
    have := congrArg (fun x => BitVec.getLsbD x (j - n)) h
    simpa [BitVec.getLsbD_ushiftRight, Nat.add_sub_cancel' hj] using this
  · intro h
    apply BitVec.eq_of_getLsbD_eq
    intro i _
    simp [BitVec.getLsbD_ushiftRight, h (n + i) (Nat.le_add_right n i)]

/-! ## The channel list and the flag -/

@[simp] theorem mem_channels (s : State) (k : Nat) : k ∈ s.channels ↔ 1 ≤ k ∧ k ≤ s.nch := by
  simp only [State.channels, List.mem_map, List.mem_range]
  constructor
  · rintro ⟨j, hj, rfl⟩; omega
  · intro h; exact ⟨k - 1, by omega, by omega⟩

@[simp] theorem channels_length (s : State) : s.channels.length = s.nch := by simp [State.channels]

theorem channels_ascending (s : State) : s.channels.Pairwise (· < ·) := by
  simpa [State.channels, List.pairwise_map] using List.pairwise_lt_range (n := s.nch)

/-- The flag says that some channel differs (R140). -/
theorem changed_iff (s : State) : s.changed = true ↔ ∃ k, 1 ≤ k ∧ k ≤ s.nch ∧ s.curChan k ≠ s.prvChan k := by
  simp [State.changed, and_assoc]

/-- The flag depends on the tracker alone. -/
theorem changed_congr {s t : State} (hc : t.cur = s.cur) (hp : t.prv = s.prv) (hn : t.nch = s.nch) :
    t.changed = s.changed := by simp [State.changed, State.channels, State.curChan, State.prvChan, hc, hp, hn]

end Sys2Proof.Machine
end

