-- ==== Sys2Proof/Laws/Exec.lean ====
section
/-! SUPPORT. What every operation does, said once, and the frames of the shared updates. -/

namespace Sys2Proof.Machine

/-! ## How an operation ends -/

@[simp] theorem ok_eq (s : State) (r : Result) : ok s r = .next (s.respond r) := rfl

@[simp] theorem fail_eq (s : State) (e : ErrorKind) : fail s e = .next (s.raise e) := rfl

/-- A set operation of the tracker, in both cases (R141, R144). -/
theorem setChannel_eq (n : Byte) (v : Bool) (s : State) :
    setChannel n v s = if n.toNat = 0 ∨ s.nch < n.toNat then .next (s.raise .channelRange)
      else .next ((s.setCur (setLane s.cur n.toNat v)).respond .none) := by
  unfold setChannel channelOf
  split <;> rename_i h <;> split at h <;> simp_all

/-- A field operand is a register for 0..12 and nothing above (R53). -/
theorem fieldIndex_eq (f : Byte) : fieldIndex f = if h : f.toNat < 13 then some ⟨f.toNat, h⟩ else none := rfl

/-- FGET of a field 0..12 (R67). -/
theorem execFget_of_lt {f : Byte} (h : f.toNat < 13) (s : State) :
    execFget f s = .next (s.respond (.byte (s.readFr ⟨f.toNat, h⟩))) := by simp [execFget, fieldIndex_eq, h]

/-- FGET of a field above 12 (R67). -/
theorem execFget_of_ge {f : Byte} (h : 13 ≤ f.toNat) (s : State) :
    execFget f s = .next (s.raise .unknownField) := by simp [execFget, fieldIndex_eq, Nat.not_lt.mpr h]

/-- FSET of a field 0..12 (R68). -/
theorem execFset_of_lt {f : Byte} (h : f.toNat < 13) (v : Byte) (s : State) :
    execFset f v s = .next ((s.writeFr ⟨f.toNat, h⟩ v).respond .none) := by simp [execFset, fieldIndex_eq, h]

/-- FSET of a field above 12 (R68). -/
theorem execFset_of_ge {f : Byte} (h : 13 ≤ f.toNat) (v : Byte) (s : State) :
    execFset f v s = .next (s.raise .unknownField) := by simp [execFset, fieldIndex_eq, Nat.not_lt.mpr h]

/-- FLOAD in both cases (R66). -/
theorem execFload_eq (s : State) : execFload s =
    if s.rxlen = 13 then .next (((s.loadFrame s.rxbuf).setRxlen 0).respond .none)
    else .next ((s.setRxlen 0).raise .invalidFrameLength) := rfl

/-- Every operation answers a next state with a response; the words to come and NCH stay (R178, R201). -/
theorem exec_answers (i : Instr) (s : State) :
    ∃ t r, exec i s = .next t ∧ t.resp = some r ∧ t.port = s.port ∧ t.nch = s.nch := by
  cases i
  case fload => simp only [exec, execFload_eq]; split <;> exact ⟨_, _, rfl, rfl, rfl, rfl⟩
  case fget f =>
    by_cases h : f.toNat < 13
    · exact ⟨_, _, execFget_of_lt h s, rfl, rfl, rfl⟩
    · exact ⟨_, _, execFget_of_ge (Nat.not_lt.mp h) s, rfl, rfl, rfl⟩
  case fset f v =>
    by_cases h : f.toNat < 13
    · exact ⟨_, _, execFset_of_lt h v s, rfl, rfl, rfl⟩
    · exact ⟨_, _, execFset_of_ge (Nat.not_lt.mp h) v s, rfl, rfl, rfl⟩
  case rxput b => exact ⟨_, _, rfl, rfl, by simp, by simp⟩
  case tsetbit n v => simp only [exec, execTsetbit, setChannel_eq]; split <;> exact ⟨_, _, rfl, rfl, rfl, rfl⟩
  case tseton n => simp only [exec, execTseton, setChannel_eq]; split <;> exact ⟨_, _, rfl, rfl, rfl, rfl⟩
  case tsetoff n => simp only [exec, execTsetoff, setChannel_eq]; split <;> exact ⟨_, _, rfl, rfl, rfl, rfl⟩
  all_goals exact ⟨_, _, rfl, rfl, rfl, rfl⟩

/-! ## Frames -/

theorem KeepsFrame.refl (l : List Nat) (s : State) : KeepsFrame l s s := fun _ _ => rfl

theorem KeepsStaged.refl (s : State) : KeepsStaged s s := fun _ => rfl

/-- An update that leaves every architectural field alone keeps everything. -/
theorem keepsAll_of_fields {s t : State} (h1 : t.fr = s.fr) (h2 : t.rxbuf = s.rxbuf) (h3 : t.rxlen = s.rxlen)
    (h4 : t.cur = s.cur) (h5 : t.prv = s.prv) (h6 : t.nch = s.nch) (h7 : t.port = s.port) : KeepsAll s t :=
  ⟨fun a _ => memRead_congr (by simpa using h1) a, ⟨fun a => memRead_congr (by simpa using h2) a, h3⟩,
    ⟨h4, h5, h6, changed_congr h4 h5 h6⟩, ⟨h7, h6⟩⟩

theorem keepsAll_respond (s : State) (r : Result) : KeepsAll s (s.respond r) :=
  keepsAll_of_fields rfl rfl rfl rfl rfl rfl rfl

theorem keepsAll_raise (s : State) (e : ErrorKind) : KeepsAll s (s.raise e) :=
  keepsAll_of_fields rfl rfl rfl rfl rfl rfl rfl

/-- An update of the frame registers alone keeps the staging buffer, the tracker and the port. -/
theorem keeps_others_of_fields {s t : State} (h2 : t.rxbuf = s.rxbuf) (h3 : t.rxlen = s.rxlen) (h4 : t.cur = s.cur)
    (h5 : t.prv = s.prv) (h6 : t.nch = s.nch) (h7 : t.port = s.port) :
    KeepsStaging s t ∧ KeepsTracker s t ∧ KeepsPort s t :=
  ⟨⟨fun a => memRead_congr (by simpa using h2) a, h3⟩, ⟨h4, h5, h6, changed_congr h4 h5 h6⟩, ⟨h7, h6⟩⟩

/-! ## One step -/

theorem step_nil {s : State} (h : s.port = []) : step s = .next s := by simp [step, fetch, h, idle]

theorem step_cons {s : State} {w : OpWord} {rest : List OpWord} (h : s.port = w :: rest) :
    step s = performWord w { s with port := rest } := by simp [step, fetch, h]

theorem performWord_ok {w : OpWord} {i : Instr} (h : decode w = .ok i) (s : State) : performWord w s = exec i s := by
  simp [performWord, h]

theorem performWord_error {w : OpWord} {e : Illegal} (h : decode w = .error e) (s : State) :
    performWord w s = .next (s.raise .illegalOperation) := by simp [performWord, h]

/-! ## A run over operations -/

theorem runOps_nil (s : State) (h : s.port = []) : runOps s [] = .next s := by
  cases s; cases h; rfl

/-- The first operation of a run, then the run of the rest. -/
theorem runOps_cons {i : Instr} {is : List Instr} {s t : State} (hd : decode (encode i) = .ok i)
    (h : exec i { s with port := wordsOf is } = .next t) : runOps s (i :: is) = runOps t is := by
  have hport : t.port = wordsOf is := by
    obtain ⟨t', _, h1, _, h3, _⟩ := exec_answers i { s with port := wordsOf is }
    rw [h] at h1
    cases h1
    exact h3
  have hs : step { s with port := wordsOf (i :: is) } = .next t := by
    rw [step_cons (w := encode i) (rest := wordsOf is) rfl, performWord_ok hd]
    exact h
  have hr : runOps s (i :: is) = Host.Core.run Sys2Proof.core is.length t := by
    simp only [runOps, List.length_cons, Host.Core.run, Sys2Proof.core, hs]
  rw [hr, runOps, ← hport]

end Sys2Proof.Machine
end

