-- ==== Sys2Proof/Machine/FrameFormat.lean ====
section
/-! DEFINITION. The frame as one number of 104 bits and its bit positions (30_encoding.md R55), with `FR[0]` most
significant. It is another view of the 13 registers, not storage of its own. -/

namespace Sys2Proof.Machine

/-- `FRAME[103:0]` (R55). -/
abbrev FrameNumber := BitVec 104

/-- `FRAME[103:0] = {FR[0], FR[1], ..., FR[12]}` (R55). -/
def frameNumber (fr : Frame) : FrameNumber :=
  fr[0] ++ fr[1] ++ fr[2] ++ fr[3] ++ fr[4] ++ fr[5] ++ fr[6] ++ fr[7] ++ fr[8] ++ fr[9] ++ fr[10] ++ fr[11] ++ fr[12]

/-- Byte `i` of the frame: bits 103:96 for byte 0 down to bits 7:0 for byte 12 (R55). -/
def frameByte (x : FrameNumber) (i : Fin 13) : Byte := x.extractLsb' (96 - 8 * i.val) 8

/-- The 13 registers of a frame given as a number (R55). -/
def frameOfNumber (x : FrameNumber) : Frame := Vector.ofFn (frameByte x)

/-- CMD7, bits 95:89: the command (R55). -/
def cmd7 (x : FrameNumber) : BitVec 7 := x.extractLsb' 89 7

/-- RESP, bit 88: the response flag (R55). -/
def respBit (x : FrameNumber) : Bool := x.getLsbD 88

/-- `hash[15:0]`, bits 87:72: `hashH` is `hash[15:8]`, `hashL` is `hash[7:0]` (R55). -/
def hashField (x : FrameNumber) : Half := x.extractLsb' 72 16

/-- `device[15:0]`, bits 63:48, where a device address is present (R55). -/
def deviceField (x : FrameNumber) : Half := x.extractLsb' 48 16

/-- `sub-device[15:0]`, bits 47:32, where a device address is present (R55). -/
def subDeviceField (x : FrameNumber) : Half := x.extractLsb' 32 16

/-- The frame registers of a state as one number (R55). -/
def State.frameNumber (s : State) : FrameNumber := Sys2Proof.Machine.frameNumber s.fr

end Sys2Proof.Machine
end

