-- ==== Sys2Proof/Laws/FrameFormat.lean ====
section
/-! SUPPORT. The frame as a number against the frame as registers: each field of R55 is the register or pair of registers
that the other rules name. -/

namespace Sys2Proof.Machine

/-- One bit of the number: byte 12 holds the least significant eight (R55). -/
theorem getLsbD_frameNumber (fr : Frame) (j : Nat) (hj : j < 104) :
    (frameNumber fr).getLsbD j = (fr[12 - j / 8]'(by omega)).getLsbD (j % 8) := by
  obtain ⟨q, r, hr, rfl⟩ : ∃ q r, r < 8 ∧ j = 8 * q + r := ⟨j / 8, j % 8, by omega, by omega⟩
  have hq : q < 13 := by omega
  simp only [show (8 * q + r) / 8 = q by omega, show (8 * q + r) % 8 = r by omega]
  unfold frameNumber
  simp only [BitVec.getLsbD_append]
  interval_cases q
  all_goals
    repeat rw [if_neg (by omega)]
    try rw [if_pos (by omega)]
    congr 1; omega

/-- A byte of the number is the register (R55). -/
@[simp] theorem frameByte_frameNumber (fr : Frame) (i : Fin 13) : frameByte (frameNumber fr) i = fr[i] := by
  apply BitVec.eq_of_getLsbD_eq
  intro j hj
  have := i.isLt
  rw [frameByte, BitVec.getLsbD_extractLsb', getLsbD_frameNumber _ _ (by omega)]
  simp [hj, show 12 - (96 - 8 * i.val + j) / 8 = i.val by omega, show (96 - 8 * i.val + j) % 8 = j by omega]

/-- The number gives the registers back. -/
@[simp] theorem frameOfNumber_frameNumber (fr : Frame) : frameOfNumber (frameNumber fr) = fr := by
  apply Vector.ext
  intro i hi
  simp [frameOfNumber]

/-- The registers give the number back, so no bit is dropped. -/
@[simp] theorem frameNumber_frameOfNumber (x : FrameNumber) : frameNumber (frameOfNumber x) = x := by
  apply BitVec.eq_of_getLsbD_eq
  intro j hj
  rw [getLsbD_frameNumber _ _ hj]
  simp only [frameOfNumber, Vector.getElem_ofFn, frameByte, BitVec.getLsbD_extractLsb']
  simp [show j % 8 < 8 by omega, show 96 - 8 * (12 - j / 8) + j % 8 = j by omega]

/-- CMD7 with a bit 0 of 0 is the command code `FR[1] & 0xFE` (R12, R55, R103). -/
theorem cmd7_frameNumber (fr : Frame) : cmd7 (frameNumber fr) ++ 0#1 = commandCode fr := by
  have h : cmd7 (frameNumber fr) = fr[1].extractLsb' 1 7 := by
    apply BitVec.eq_of_getLsbD_eq
    intro j hj
    rw [cmd7, BitVec.getLsbD_extractLsb', getLsbD_frameNumber _ _ (by omega), BitVec.getLsbD_extractLsb']
    simp [hj, show 12 - (89 + j) / 8 = 1 by omega, show (89 + j) % 8 = 1 + j by omega]
  rw [h, commandCode]
  generalize fr[1] = b
  revert b
  decide

/-- RESP is the response flag (R12, R55). -/
theorem respBit_frameNumber (fr : Frame) : respBit (frameNumber fr) = respFlag fr :=
  getLsbD_frameNumber fr 88 (by decide)

/-- Sixteen bits of the number at a byte boundary are two registers, the higher one first (R33, R55). -/
theorem halfField_frameNumber (fr : Frame) (i : Nat) (hi : i < 12) :
    (frameNumber fr).extractLsb' (88 - 8 * i) 16 = halfOf fr[i] fr[i + 1] := by
  apply BitVec.eq_of_getLsbD_eq
  intro j hj
  rw [BitVec.getLsbD_extractLsb', getLsbD_frameNumber _ _ (by omega), halfOf, BitVec.getLsbD_append]
  by_cases h : j < 8
  · simp [hj, h, show 12 - (88 - 8 * i + j) / 8 = i + 1 by omega, show (88 - 8 * i + j) % 8 = j by omega]
  · simp [hj, h, show 12 - (88 - 8 * i + j) / 8 = i by omega, show (88 - 8 * i + j) % 8 = j - 8 by omega]

theorem hashField_frameNumber (fr : Frame) : hashField (frameNumber fr) = halfOf fr[2] fr[3] :=
  halfField_frameNumber fr 2 (by decide)

/-- The device field is the number that DEVNUM reports (R55, R120). -/
theorem deviceField_frameNumber (fr : Frame) :
    deviceField (frameNumber fr) = halfOf (dataByte fr 0) (dataByte fr 1) := halfField_frameNumber fr 5 (by decide)

/-- The sub-device field is the number that CONTACT reports (R55, R120). -/
theorem subDeviceField_frameNumber (fr : Frame) :
    subDeviceField (frameNumber fr) = halfOf (dataByte fr 2) (dataByte fr 3) := halfField_frameNumber fr 7 (by decide)

end Sys2Proof.Machine
end

