-- ==== Sys2Proof/Laws/PerInstr.lean ====
section
/-! SUPPORT. Facts about every operation as syntax, one lemma for each constructor. Family `Encode`: the word of an
operation carries an assigned opcode, and the opcode map gives that opcode the operation's own row. -/

namespace Sys2Proof.Laws.Encode

/-- The encoded word belongs to a row of the opcode table that has the operation's mnemonic (R50). -/
def Statement (i : Instr) : Prop := ∃ row ∈ opcodeTable, row.mnemonic = i.mnemonic ∧
  opcodeOf row.pattern = opcodeOf (encode i) ∧ row.mask.extractLsb' 64 8 = 0xFF#8

/-- An operation whose word is made with the opcode of a row of the table. -/
theorem of_row {i : Instr} {opc : Byte} {p : Operand} (row : OpcodeRow) (hi : encode i = wordOf opc p)
    (hrow : row ∈ opcodeTable ∧ row.mnemonic = i.mnemonic ∧ opcodeOf row.pattern = opc ∧
      row.mask.extractLsb' 64 8 = 0xFF#8) : Statement i :=
  ⟨row, hrow.1, hrow.2.1, by rw [hrow.2.2.1, hi, opcodeOf_wordOf], hrow.2.2.2⟩

theorem fclr : Statement (.fclr) :=
  of_row ⟨"FCLR", 0x010000000000000000, 0xFFFFFFFFFFFFFFFFFF⟩ rfl (by simp only [Instr.mnemonic]; decide)

theorem fload : Statement (.fload) :=
  of_row ⟨"FLOAD", 0x020000000000000000, 0xFFFFFFFFFFFFFFFFFF⟩ rfl (by simp only [Instr.mnemonic]; decide)

theorem fget (f : Byte) : Statement (.fget f) :=
  of_row ⟨"FGET", 0x030000000000000000, 0xFFFFFFFFFFFFFFFF00⟩ rfl (by simp only [Instr.mnemonic]; decide)

theorem fset (f v : Byte) : Statement (.fset f v) :=
  of_row ⟨"FSET", 0x040000000000000000, 0xFFFFFFFFFFFFFF0000⟩ rfl (by simp only [Instr.mnemonic]; decide)

theorem fread : Statement (.fread) :=
  of_row ⟨"FREAD", 0x050000000000000000, 0xFFFFFFFFFFFFFFFFFF⟩ rfl (by simp only [Instr.mnemonic]; decide)

theorem rxput (b : Byte) : Statement (.rxput b) :=
  of_row ⟨"RXPUT", 0x060000000000000000, 0xFFFFFFFFFFFFFFFF00⟩ rfl (by simp only [Instr.mnemonic]; decide)

theorem rxclr : Statement (.rxclr) :=
  of_row ⟨"RXCLR", 0x070000000000000000, 0xFFFFFFFFFFFFFFFFFF⟩ rfl (by simp only [Instr.mnemonic]; decide)

theorem setprio (p : Byte) : Statement (.setprio p) :=
  of_row ⟨"SETPRIO", 0x100000000000000000, 0xFFFFFFFFFFFFFFFF00⟩ rfl (by simp only [Instr.mnemonic]; decide)

theorem setdlc (n : Byte) : Statement (.setdlc n) :=
  of_row ⟨"SETDLC", 0x110000000000000000, 0xFFFFFFFFFFFFFFFF00⟩ rfl (by simp only [Instr.mnemonic]; decide)

theorem setcmd (code : Byte) (r : Bool) (dlc : Byte) : Statement (.setcmd code r dlc) :=
  of_row ⟨"SETCMD", 0x120000000000000000, 0xFFFFFFFFFFFF00FE00⟩ rfl (by simp only [Instr.mnemonic]; decide)

theorem sethash (h : Half) : Statement (.sethash h) :=
  of_row ⟨"SETHASH", 0x130000000000000000, 0xFFFFFFFFFFFFFF0000⟩ rfl (by simp only [Instr.mnemonic]; decide)

theorem setdev (dev sub : Half) : Statement (.setdev dev sub) :=
  of_row ⟨"SETDEV", 0x140000000000000000, 0xFFFFFFFFFF00000000⟩ rfl (by simp only [Instr.mnemonic]; decide)

theorem settrk (dev sub : Half) (state recent : Byte) : Statement (.settrk dev sub state recent) :=
  of_row ⟨"SETTRK", 0x150000000000000000, 0xFFFFFF000000000000⟩ rfl (by simp only [Instr.mnemonic]; decide)

theorem togtrk : Statement (.togtrk) :=
  of_row ⟨"TOGTRK", 0x160000000000000000, 0xFFFFFFFFFFFFFFFFFF⟩ rfl (by simp only [Instr.mnemonic]; decide)

theorem togtrkv (new : Byte) : Statement (.togtrkv new) :=
  of_row ⟨"TOGTRKV", 0x170000000000000000, 0xFFFFFFFFFFFFFFFF00⟩ rfl (by simp only [Instr.mnemonic]; decide)

theorem fresp : Statement (.fresp) :=
  of_row ⟨"FRESP", 0x180000000000000000, 0xFFFFFFFFFFFFFFFFFF⟩ rfl (by simp only [Instr.mnemonic]; decide)

theorem hash (id : Operand) : Statement (.hash id) :=
  of_row ⟨"HASH", 0x200000000000000000, 0xFF0000000000000000⟩ rfl (by simp only [Instr.mnemonic]; decide)

theorem decode : Statement (.decode) :=
  of_row ⟨"DECODE", 0x300000000000000000, 0xFFFFFFFFFFFFFFFFFF⟩ rfl (by simp only [Instr.mnemonic]; decide)

theorem tsetbit (n : Byte) (v : Bool) : Statement (.tsetbit n v) :=
  of_row ⟨"TSETBIT", 0x400000000000000000, 0xFFFFFFFFFFFFFF00FE⟩ rfl (by simp only [Instr.mnemonic]; decide)

theorem tseton (n : Byte) : Statement (.tseton n) :=
  of_row ⟨"TSETON", 0x410000000000000000, 0xFFFFFFFFFFFFFFFF00⟩ rfl (by simp only [Instr.mnemonic]; decide)

theorem tsetoff (n : Byte) : Statement (.tsetoff n) :=
  of_row ⟨"TSETOFF", 0x420000000000000000, 0xFFFFFFFFFFFFFFFF00⟩ rfl (by simp only [Instr.mnemonic]; decide)

theorem tsetall (bits : Operand) : Statement (.tsetall bits) :=
  of_row ⟨"TSETALL", 0x430000000000000000, 0xFF0000000000000000⟩ rfl (by simp only [Instr.mnemonic]; decide)

theorem tcommit : Statement (.tcommit) :=
  of_row ⟨"TCOMMIT", 0x440000000000000000, 0xFFFFFFFFFFFFFFFFFF⟩ rfl (by simp only [Instr.mnemonic]; decide)

theorem treset : Statement (.treset) :=
  of_row ⟨"TRESET", 0x450000000000000000, 0xFFFFFFFFFFFFFFFFFF⟩ rfl (by simp only [Instr.mnemonic]; decide)

theorem tdiff : Statement (.tdiff) :=
  of_row ⟨"TDIFF", 0x460000000000000000, 0xFFFFFFFFFFFFFFFFFF⟩ rfl (by simp only [Instr.mnemonic]; decide)

theorem tstr : Statement (.tstr) :=
  of_row ⟨"TSTR", 0x470000000000000000, 0xFFFFFFFFFFFFFFFFFF⟩ rfl (by simp only [Instr.mnemonic]; decide)

theorem tchg : Statement (.tchg) :=
  of_row ⟨"TCHG", 0x480000000000000000, 0xFFFFFFFFFFFFFFFFFF⟩ rfl (by simp only [Instr.mnemonic]; decide)

end Sys2Proof.Laws.Encode
end

