-- ==== Sys2Proof/Laws/ReportText.lean ====
section
/-! SUPPORT. What the text report fixes whatever its open pieces are: the width of a body line's label, the digits of a
dump. -/

namespace Sys2Proof.Machine

@[simp] theorem byteDigits_length (upper : Bool) (b : Byte) : (byteDigits upper b).length = 2 := rfl

/-- In lower case the digits are those of the first line (R161). -/
theorem byteDigits_lower (b : Byte) : byteDigits false b = (hex2 b).toList := by
  simp [byteDigits, hexDigitIn, hex2]

/-- A label of at most 15 characters is padded to 15 (R162). -/
theorem fixedLabel_length {label : String} (h : label.length ≤ 15) : (fixedLabel label).length = 15 := by
  unfold fixedLabel
  split <;> simp <;> omega

theorem openLabel_length (kind : Nat) : (openLabel kind).length ≤ 15 := by
  simp [openLabel]

theorem fixedLabel_openLabel_length (kind : Nat) : (fixedLabel (openLabel kind)).length = 15 :=
  fixedLabel_length (openLabel_length kind)

/-- The five words that the source quotes fit the field (R162, R168, R170). -/
theorem quoted_labels_fit :
    ∀ label ∈ ["channel", "value", "Position", "Strom", "Schaltzeit"], label.length ≤ 15 := by decide

theorem fixedLabel_quoted_length {label : String} (h : label ∈ ["channel", "value", "Position", "Strom", "Schaltzeit"]) :
    (fixedLabel label).length = 15 := fixedLabel_length (quoted_labels_fit label h)

/-- Every line of a body, kinds 4 to 21, has a label of 15 characters (R162). -/
theorem label_length (it : Item) (h : 4 ≤ it.kind) : it.label.length = 15 := by
  cases it
  case raw | msgType | command | dlc => simp [Item.kind] at h
  case channel | value | position | current | swTime =>
    simp only [Item.label]
    exact fixedLabel_quoted_length (by simp)
  all_goals simp only [Item.label, fixedLabel_openLabel_length]

end Sys2Proof.Machine
end

