-- ==== Sys2Proof/Laws/Units.lean ====
section
/-! SUPPORT. The units' own functions, said once: 16-bit pairs, hash bits, command class and report, valid mask, list of
changed channels. -/

namespace Sys2Proof.Machine

/-! ## 16-bit pairs (20_memory.md R33) -/

theorem halfOf_toNat (hi lo : Byte) : (halfOf hi lo).toNat = hi.toNat * 256 + lo.toNat := by
  have h := lo.isLt
  simp only [halfOf, BitVec.toNat_append]
  rw [Nat.shiftLeft_eq, Nat.mul_comm, ← Nat.two_pow_add_eq_or_of_lt h]

theorem hiByte_toNat (h : Half) : (hiByte h).toNat = h.toNat / 256 := by
  have := h.isLt
  simp [hiByte, BitVec.extractLsb'_toNat, Nat.shiftRight_eq_div_pow]
  omega

theorem loByte_toNat (h : Half) : (loByte h).toNat = h.toNat % 256 := by
  simp [loByte, BitVec.extractLsb'_toNat]

@[simp] theorem halfOf_hiByte_loByte (h : Half) : halfOf (hiByte h) (loByte h) = h := by
  apply BitVec.eq_of_toNat_eq
  rw [halfOf_toNat, hiByte_toNat, loByte_toNat]
  omega

/-! ## Registers after an answer -/

@[simp] theorem readFr_respond (s : State) (r : Result) (i : Fin 13) : (s.respond r).readFr i = s.readFr i := rfl

@[simp] theorem readFr_raise (s : State) (e : ErrorKind) (i : Fin 13) : (s.raise e).readFr i = s.readFr i := rfl

/-! ## The hash (41_hash.md) -/

/-- Steps 1 to 3 of R80 as one 16-bit exclusive or. -/
theorem hashFold_eq (id : Operand) :
    hashFold id = (id.extractLsb' 16 16 ^^^ id.extractLsb' 0 16 : Half).toNat := by
  simp only [hashFold, BitVec.toNat_xor, BitVec.extractLsb'_toNat]
  have h1 := Nat.and_two_pow_sub_one_eq_mod id.toNat 32
  have h2 := fun x => Nat.and_two_pow_sub_one_eq_mod x 16
  norm_num at h1 h2
  rw [h1, h2, Nat.shiftRight_eq_div_pow, Nat.shiftRight_eq_div_pow]
  norm_num
  omega

/-! ## The report (43_decoder.md) -/

/-- A command class from the number of the code. -/
theorem commandClass_of_toNat {code : Byte} {n : Nat} (h : code.toNat = n) :
    commandClass code = commandClass (BitVec.ofNat 8 n) := by subst h; simp

/-- DECODE from the class and the body (R100). -/
theorem decodesTo_intro (s : State) {cls : CommandClass} {body : List Item}
    (h1 : commandClass (s.readFr 1 &&& 0xFE) = cls) (h2 : reportBody s.fr cls = body) : DecodesTo s cls body := by
  subst h1 h2
  exact ⟨_, rfl, keepsAll_respond s _, rfl⟩

theorem reportHeader_length (fr : Frame) : (reportHeader fr).length = 4 := rfl

/-- One bit of a number built as a sum of distinct powers of two. -/
theorem testBit_mask (f : Nat → Bool) (n : Nat) :
    (List.range n).foldl (fun m k => m + if f k then 2 ^ k else 0) 0 < 2 ^ n ∧
      ∀ k < n, ((List.range n).foldl (fun m k => m + if f k then 2 ^ k else 0) 0).testBit k = f k := by
  induction n with
  | zero => simp
  | succ n ih =>
    obtain ⟨h1, h2⟩ := ih
    rw [List.range_succ, List.foldl_append]
    simp only [List.foldl_cons, List.foldl_nil]
    generalize (List.range n).foldl (fun m k => m + if f k then 2 ^ k else 0) 0 = m at *
    refine ⟨by split <;> omega, fun k hk => ?_⟩
    cases hf : f n
    · by_cases e : k = n
      · subst e; simp [hf, Nat.testBit_lt_two_pow h1]
      · simp [h2 k (by omega)]
    · simp only [if_true, Nat.add_comm m]
      by_cases e : k = n
      · subst e; rw [Nat.testBit_two_pow_add_eq, Nat.testBit_lt_two_pow h1, hf]; rfl
      · rw [Nat.testBit_two_pow_add_gt (by omega), h2 k (by omega)]

/-- Bit `k` of the valid mask is the presence of kind `k` (R127). -/
theorem getLsbD_validMask (fr : Frame) {k : Nat} (hk : k < 22) : (validMask fr).getLsbD k = kindValid fr k := by
  rw [validMask, BitVec.getLsbD_ofNat, (testBit_mask (kindValid fr) 22).2 k hk]
  simp [hk]

/-! ## The list of changed channels (44_tracker.md R148) -/

theorem changes_eq_nil (s : State) : s.changes = [] ↔ s.changed = false := by
  rw [Bool.eq_false_iff, Ne, changed_iff]
  simp [State.changes, List.filterMap_eq_nil_iff]

end Sys2Proof.Machine
end

