-- ==== Sys2Proof/Tests/Slice0.lean ====
section
/-! SUPPORT. The model's own tests. Every expected value is transcribed from spec/95_test_vectors.md (the vector is named)
or from the rule named; the witnesses at the end meet the hypotheses of the statements. -/

open Sys2Proof Sys2Proof.Machine

namespace Sys2Proof.Tests

/-! ## Small states and views of an outcome -/

/-- A frame from its bytes. -/
def frameOf (bs : List Byte) : Frame := Vector.ofFn fun i => bs.getD i.val 0

/-- The reset state with this frame. -/
def withFrame (bs : List Byte) : State := { State.reset with fr := frameOf bs }

/-- The reset state with this tracker of `n` channels. -/
def withTracker (n : Nat) (cur prv : Lanes) : State := { State.resetFor n with cur := cur, prv := prv }

/-- The reset state with these words presented. -/
def presenting (ws : List OpWord) : State := { State.reset with port := ws }

/-- The response of an outcome. -/
def answer : Out → Option Response
  | .next t => t.resp
  | .fault _ => none
  | .refused _ => none

/-- The frame registers after an outcome. -/
def frAfter : Out → List Byte
  | .next t => t.fr.toList
  | .fault _ => []
  | .refused _ => []

/-- `RXBUF`, `RXLEN` after an outcome. -/
def stagedAfter : Out → List Byte × Nat
  | .next t => (t.rxbuf.toList, t.rxlen.toNat)
  | .fault _ => ([], 0)
  | .refused _ => ([], 0)

/-- `CUR`, `PRV` after an outcome. -/
def trackerAfter : Out → Lanes × Lanes
  | .next t => (t.cur, t.prv)
  | .fault _ => (0, 0)
  | .refused _ => (0, 0)

/-- The frame of S3. -/
def frameS3 : List Byte := [0x00, 0x22, 0xCB, 0x7F, 0x08, 0x00, 0x00, 0x00, 0x1E, 0x00, 0x00, 0x00, 0x00]

/-- The frame of S4, after one toggle. -/
def frameS4 : List Byte := [0x00, 0x22, 0xCB, 0x7F, 0x08, 0x00, 0x00, 0x00, 0x1E, 0x00, 0x01, 0x00, 0x00]

/-- The frame of V-F15. -/
def framePing : List Byte := [0x00, 0x31, 0x03, 0x00, 0x08, 0x43, 0x53, 0x9A, 0x40, 0x01, 0x27, 0x00, 0x10]

/-- Thirteen staged bytes. -/
def staged13 : State := { withFrame frameS3 with rxbuf := frameOf framePing, rxlen := 13 }

/-! ## Decoding: one word for each of the 27 operations (2.7) -/

theorem test_decode_fclr : decode 0x010000000000000000 = .ok .fclr := rfl
theorem test_decode_fload : decode 0x020000000000000000 = .ok .fload := rfl
theorem test_decode_fget : decode 0x030000000000000003 = .ok (.fget 3) := rfl
theorem test_decode_fset : decode 0x04000000000000092A = .ok (.fset 9 0x2A) := rfl
theorem test_decode_fread : decode 0x050000000000000000 = .ok .fread := rfl
theorem test_decode_rxput : decode 0x06000000000000009A = .ok (.rxput 0x9A) := rfl
theorem test_decode_rxclr : decode 0x070000000000000000 = .ok .rxclr := rfl
theorem test_decode_setprio : decode 0x1000000000000000FF = .ok (.setprio 0xFF) := rfl
theorem test_decode_setdlc : decode 0x110000000000000006 = .ok (.setdlc 6) := rfl
theorem test_decode_setcmd : decode 0x120000000000C80130 = .ok (.setcmd 0x30 true 200) := rfl
theorem test_decode_sethash : decode 0x13000000000000CB7F = .ok (.sethash 0xCB7F) := rfl
theorem test_decode_setdev : decode 0x14000000000102A0B0 = .ok (.setdev 0x0102 0xA0B0) := rfl
theorem test_decode_settrk : decode 0x1500000001012C0100 = .ok (.settrk 1 300 1 0) := rfl
theorem test_decode_togtrk : decode 0x160000000000000000 = .ok .togtrk := rfl
theorem test_decode_togtrkv : decode 0x170000000000000001 = .ok (.togtrkv 1) := rfl
theorem test_decode_fresp : decode 0x180000000000000000 = .ok .fresp := rfl
theorem test_decode_hash : decode 0x200000F0B0149FADE0 = .ok (.hash 0xF0B0149FADE0) := rfl
theorem test_decode_decode : decode 0x300000000000000000 = .ok .decode := rfl
theorem test_decode_tsetbit : decode 0x400000000000000301 = .ok (.tsetbit 3 true) := rfl
theorem test_decode_tseton : decode 0x410000000000000010 = .ok (.tseton 16) := rfl
theorem test_decode_tsetoff : decode 0x420000000000000001 = .ok (.tsetoff 1) := rfl
theorem test_decode_tsetall : decode 0x43FFFFFFFFFFFF0000 = .ok (.tsetall 0xFFFFFFFFFFFF0000) := rfl
theorem test_decode_tcommit : decode 0x440000000000000000 = .ok .tcommit := rfl
theorem test_decode_treset : decode 0x450000000000000000 = .ok .treset := rfl
theorem test_decode_tdiff : decode 0x460000000000000000 = .ok .tdiff := rfl
theorem test_decode_tstr : decode 0x470000000000000000 = .ok .tstr := rfl
theorem test_decode_tchg : decode 0x480000000000000000 = .ok .tchg := rfl

/-- V-E1 to V-E7: reserved opcodes. -/
theorem test_reserved_opcodes :
    [0x000000000000000000, 0x080000000000000000, 0x190000000000000000, 0x210000000000000000, 0x310000000000000000,
      0x490000000000000000, 0xFF0000000000001234].map decode = List.replicate 7 (.error .reservedOpcode) := rfl

/-- V-E8 to V-E13: reserved operand bits. -/
theorem test_reserved_bits :
    [0x010000000000000001, 0x120000000000000200, 0x150001000000000000, 0x400000000000000302, 0x04000000000001C800,
      0x410000000000000100].map decode = List.replicate 6 (.error .reservedBit) := rfl

/-- R36: the opcode is the first byte, and the bytes give the word back. -/
theorem test_bytes_of_word :
    (bytesOfWord 0x04000000000000092A).toList = [0x04, 0, 0, 0, 0, 0, 0, 0x09, 0x2A] ∧
      wordOfBytes (bytesOfWord 0x04000000000000092A) = 0x04000000000000092A := by decide

/-- The table's numbering of bits: bit 0 is bit 0 of the 72-bit word (log 4). -/
theorem test_table_word : decodeTableWord 72 0x400000000000000301 = some (.tsetbit 3 true) := by decide

/-! ## WellFormed: each check refuses an ill-formed term (R53) -/

theorem test_documented_field : (Instr.fget 12).documented 16 = true ∧ (Instr.fget 13).documented 16 = false ∧
    (Instr.fset 13 0x55).documented 16 = false := by decide

theorem test_documented_dlc : (Instr.setdlc 8).documented 16 = true ∧ (Instr.setdlc 9).documented 16 = false ∧
    (Instr.setcmd 0x22 true 9).documented 16 = false := by decide

theorem test_documented_code : (Instr.setcmd 0x22 true 8).documented 16 = true ∧
    (Instr.setcmd 0x23 true 8).documented 16 = false := by decide

theorem test_documented_channel : (Instr.tsetbit 16 true).documented 16 = true ∧
    (Instr.tsetbit 0 true).documented 16 = false ∧ (Instr.tsetbit 17 true).documented 16 = false ∧
    (Instr.tseton 17).documented 16 = false ∧ (Instr.tsetoff 0).documented 16 = false := by decide

theorem test_documented_bits : (Instr.tsetall 0xFFFF).documented 16 = true ∧
    (Instr.tsetall 0x10000).documented 16 = false := by decide

theorem test_documented_id : (Instr.hash 0xF0B0149FADE0).documented 16 = true ∧
    (Instr.hash 0x1000000000000).documented 16 = false := by decide

/-! ## The frame unit (2.2) -/

/-- V-F1. -/
theorem test_fread_reset : answer (exec .fread State.reset) = some (.ok (.frame (frameOf []))) := by decide

/-- V-F2: d4 is index 9. -/
theorem test_fset : frAfter (exec (.fset 9 0x2A) State.reset) = [0, 0, 0, 0, 0, 0, 0, 0, 0, 0x2A, 0, 0, 0] := by decide

/-- V-F8: nothing written. -/
theorem test_fset_unknown : answer (exec (.fset 13 0x55) (withFrame frameS3)) = some (.error .unknownField) ∧
    frAfter (exec (.fset 13 0x55) (withFrame frameS3)) = frameS3 := by decide

/-- R55 on the frame of S3: the number, CMD7 and RESP, hash, device 0, sub-device 30. -/
theorem test_frame_number : let x := frameNumber (frameOf frameS3)
    x = 0x0022CB7F080000001E00000000 ∧ cmd7 x = 0x11 ∧ respBit x = false ∧ hashField x = 0xCB7F ∧ deviceField x = 0 ∧
      subDeviceField x = 30 ∧ frameByte x 4 = 8 ∧ frameOfNumber x = frameOf frameS3 := by decide

/-- P2, step 15. -/
theorem test_fget : answer (exec (.fget 1) (withFrame framePing)) = some (.ok (.byte 0x31)) := by decide

/-- V-F6, V-F7. -/
theorem test_fget_unknown : answer (exec (.fget 13) State.reset) = some (.error .unknownField) ∧
    answer (exec (.fget 0xFF) State.reset) = some (.error .unknownField) := by decide

/-- V-F10. -/
theorem test_fclr : frAfter (exec .fclr staged13) = List.replicate 13 0 ∧
    stagedAfter (exec .fclr staged13) = (framePing, 13) := by decide

/-- V-F15. -/
theorem test_fload : frAfter (exec .fload staged13) = framePing ∧ (stagedAfter (exec .fload staged13)).2 = 0 := by decide

/-- V-F13: one byte over. -/
theorem test_fload_over : let s := { staged13 with rxlen := 14 }
    answer (exec .fload s) = some (.error .invalidFrameLength) ∧ frAfter (exec .fload s) = frameS3 ∧
      (stagedAfter (exec .fload s)).2 = 0 := by decide

/-- V-F18. -/
theorem test_rxput : stagedAfter (exec (.rxput 0xAA) { State.reset with rxlen := 3 }) =
    ([0, 0, 0, 0xAA, 0, 0, 0, 0, 0, 0, 0, 0, 0], 4) := by decide

/-- V-F19, V-F20: counted only, and saturated. -/
theorem test_rxput_full : stagedAfter (exec (.rxput 0xAA) staged13) = (framePing, 14) ∧
    (stagedAfter (exec (.rxput 0xAA) { staged13 with rxlen := 255 })).2 = 255 := by decide

/-- V-F17. -/
theorem test_rxclr : stagedAfter (exec .rxclr staged13) = (framePing, 0) := by decide

/-! ## The builder unit (2.3) -/

/-- V-B2. -/
theorem test_setprio : (frAfter (exec (.setprio 0xFF) State.reset)).take 2 = [0xFF, 0] := by decide

/-- V-B4: above 8, stored unchanged. -/
theorem test_setdlc : (frAfter (exec (.setdlc 9) State.reset)).take 5 = [0, 0, 0, 0, 9] := by decide

/-- V-B6, V-B8. -/
theorem test_setcmd : (frAfter (exec (.setcmd 0x22 true 8) State.reset)).take 5 = [0, 0x23, 0, 0, 8] ∧
    (frAfter (exec (.setcmd 0x23 true 8) State.reset)).take 5 = [0, 0x24, 0, 0, 8] := by decide

/-- V-B9: wraps modulo 256. -/
theorem test_setcmd_wraps : (frAfter (exec (.setcmd 0xFF true 0) (withFrame frameS3))).take 5 =
    [0, 0, 0xCB, 0x7F, 0] := by decide

/-- V-B12. -/
theorem test_sethash : (frAfter (exec (.sethash 0xCB7F) State.reset)).take 5 = [0, 0, 0xCB, 0x7F, 0] := by decide

/-- V-B13. -/
theorem test_setdev : (frAfter (exec (.setdev 0x0102 0xA0B0) State.reset)).drop 4 =
    [0, 0x01, 0x02, 0xA0, 0xB0, 0, 0, 0, 0] := by decide

/-- V-B13d: the order dev, sub, state, recent. -/
theorem test_settrk : (frAfter (exec (.settrk 0xFFFF 0xFFFF 0xFF 0xFE) State.reset)).drop 4 =
    [0, 0xFF, 0xFF, 0xFF, 0xFF, 0xFE, 0xFF, 0, 0] := by decide

/-- V-B14: S4. -/
theorem test_togtrk : frAfter (exec .togtrk (withFrame frameS3)) = frameS4 := by decide

/-- V-B16: a state that is not binary. -/
theorem test_togtrk_other : (frAfter (exec .togtrk (withFrame [0, 0, 0, 0, 0, 0, 0, 0, 0, 0x55, 0x07]))).drop 9 =
    [0x07, 0x06, 0, 0] := by decide

/-- V-B16a. -/
theorem test_togtrkv : (frAfter (exec (.togtrkv 7) (withFrame [0, 0, 0, 0, 0, 0, 0, 0, 0, 0x06, 0x07]))).drop 9 =
    [0x07, 0x07, 0, 0] := by decide

/-- V-B17: the response is read out and not written back. -/
theorem test_fresp : answer (exec .fresp (withFrame frameS4)) = some (.ok (.frame (frameOf
    [0x00, 0x23, 0xCB, 0x7F, 0x08, 0x00, 0x00, 0x00, 0x1E, 0x00, 0x01, 0x00, 0x00]))) ∧
    frAfter (exec .fresp (withFrame frameS4)) = frameS4 := by decide

/-! ## The hash unit (2.1) -/

/-- V-H1, V-H2. -/
theorem test_hash_known : addressHash 0xF0B0149FADE0 = 0xCB7F ∧ addressHash 0x43539A40 = 0xCB13 := by decide

/-- V-H4, V-H6, V-H10 to V-H14, V-H16, V-H17. -/
theorem test_hash_corners : [0, 0xFFFF, 0x80, 0x2000, 0x1FE0, 0xDEADBEEF, 0x12345678, 0xABCD0000ABCD,
      0xFFFFFFFF00000000].map addressHash =
    [0x0300, 0xFF7F, 0x0700, 0x0300, 0xFF60, 0x0342, 0x234C, 0x5F4D, 0x0300] := by decide

/-! ## The decode unit (2.4) -/

/-- The report after RAW. -/
def afterRaw (bs : List Byte) : List Item := (report (frameOf bs)).drop 1

/-- V-D1, and that DECODE answers it. -/
theorem test_decode_track : answer (exec .decode (withFrame frameS3)) = some (.ok (.report
    [.raw (frameOf frameS3), .msgType false, .command 34 .trackState, .dlc 8, .devId 0 0 0 0x1E, .devNum 0, .contact 30,
      .stRecent 0, .state 0])) := by decide

/-- V-D10, V-D13, V-D15. -/
theorem test_decode_system :
    afterRaw [0x00, 0x01, 0x03, 0x00, 0x07, 0x11, 0x22, 0x33, 0x44, 0x09, 0xAB, 0xCD, 0x00] =
      [.msgType true, .command 0 .systemCommand, .dlc 7, .devId 0x11 0x22 0x33 0x44, .subCmd .mfxNewNotifyingCounter,
        .counter 0xAB 0xCD] ∧
    (afterRaw [0, 0, 3, 0, 6, 0, 0, 0, 0, 0x30, 0x7E, 0, 0]).drop 4 = [.subCmd .systemQuestion, .value 0x7E] ∧
    (afterRaw [0, 0, 3, 0, 5, 0, 0, 0, 0, 0xFF, 0, 0, 0]).drop 4 = [.unkSub 0xFF] := by decide

/-- V-D16, V-D18, V-D19, V-D21. -/
theorem test_decode_discovery :
    (afterRaw [0, 2, 3, 0, 1, 0x21, 0, 0, 0, 0, 0, 0, 0]).drop 3 = [.protocol .mm2 0x21] ∧
    (afterRaw [0, 3, 3, 0, 5, 0xFF, 0xFE, 0xFD, 0xFC, 0x22, 0, 0, 0]).drop 3 =
      [.devId 0xFF 0xFE 0xFD 0xFC, .protocol .mfxMainRail 0x22] ∧
    (afterRaw [0, 2, 3, 0, 6, 1, 2, 3, 4, 0, 0x55, 0, 0]).drop 3 =
      [.devId 1 2 3 4, .protocol .mfxProgRail 0, .sigQ 0x55] ∧
    (afterRaw [0, 2, 3, 0, 8, 0, 0, 0, 0, 0, 0, 0, 0]).drop 3 = [.unkDlc 8] := by decide

/-- V-D23, V-D25, V-D30, V-D32. -/
theorem test_decode_others :
    (afterRaw [0, 8, 3, 0, 6, 0, 0, 0x40, 5, 1, 0xF4, 0, 0]).drop 1 = [.command 8 .locSpeed, .dlc 6, .devId 0 0 0x40 5] ∧
    (afterRaw [0, 0x17, 3, 0, 8, 0, 0, 0x30, 1, 0, 1, 0, 0x14]).drop 3 =
      [.devId 0 0 0x30 1, .position 0, .current 1, .swTime 0 0x14] ∧
    (afterRaw framePing).drop 3 = [.devId 0x43 0x53 0x9A 0x40, .swVer 1 0x27, .dbVer 0 0x10] ∧
    (afterRaw [0, 0x3A, 3, 0, 8, 0x43, 0x53, 0x9A, 0x40, 1, 0, 0, 0]).drop 3 = [] := by decide

/-- V-D26, V-D27. -/
theorem test_decode_unknown :
    afterRaw [0, 0x36, 3, 0, 0, 0, 0, 0, 0, 0, 0, 0, 0] = [.msgType false, .command 54 .unknown, .dlc 0] ∧
    afterRaw (List.replicate 13 0xFF) = [.msgType true, .command 254 .unknown, .dlc 0xFF] := by decide

/-- The masks of V-D1, V-D26, V-D19. -/
theorem test_valid_masks : validMask (frameOf frameS3) = 0x0F001F ∧
    validMask (frameOf [0, 0x36, 3]) = 0x00000F ∧
    validMask (frameOf [0, 2, 3, 0, 6, 1, 2, 3, 4, 0, 0x55]) = 0x000C1F := by decide

/-- The first line of V-D1. -/
theorem test_raw_line : rawText (frameOf frameS3) = "00 22 cb 7f 08 00 00 00 1e 00 00 00 00 " := by decide

/-- R167: a dump of the device id of V-D1, in lower case with spaces and in upper case without; R164: 34 is 0x22. -/
theorem test_device_id_dump : hexDump false " " false [0x00, 0x00, 0x00, 0x1E] = "00 00 00 1e" ∧
    hexDump true "" false [0xFF, 0xFE, 0xFD, 0xFC] = "FFFEFDFC" ∧
    numberDigits false 0 34 = ['2', '2'] ∧ numberDigits true 2 10 = ['0', 'A'] := by decide

/-- R171: device 0, contact 30, state-recent 0, state 1; the states are decimal (N16). -/
theorem test_track_values : (Item.devNum 0).valueText = "0" ∧ (Item.contact 30).valueText = "30" ∧
    (Item.stRecent 0).valueText = "0" ∧ (Item.state 1).valueText = "1" ∧ (Item.state 0xFE).valueText = "254" := by decide

/-! ## The tracker unit (2.5) -/

/-- V-T2. -/
theorem test_tsetbit : trackerAfter (exec (.tsetbit 3 true) State.reset) = (0x4, 0) := by decide

/-- V-T12, V-T13. -/
theorem test_tsetbit_range : answer (exec (.tsetbit 0 true) State.reset) = some (.error .channelRange) ∧
    answer (exec (.tsetbit 17 true) State.reset) = some (.error .channelRange) := by decide

/-- V-T14, V-T21 with 8 channels, V-T22 with 64. -/
theorem test_tseton : trackerAfter (exec (.tseton 16) State.reset) = (0x8000, 0) ∧
    trackerAfter (exec (.tseton 8) (State.resetFor 8)) = (0x80, 0) ∧
    trackerAfter (exec (.tseton 64) (State.resetFor 64)) = (0x8000000000000000, 0) := by decide

/-- V-T21, V-T22. -/
theorem test_tseton_range : answer (exec (.tseton 9) (State.resetFor 8)) = some (.error .channelRange) ∧
    answer (exec (.tseton 65) (State.resetFor 64)) = some (.error .channelRange) := by decide

/-- P3, step 12. -/
theorem test_tsetoff : trackerAfter (exec (.tsetoff 1) (withTracker 16 0x8001 0x4)) = (0x8000, 0x4) := by decide

/-- V-T16. -/
theorem test_tsetoff_range : answer (exec (.tsetoff 0) State.reset) = some (.error .channelRange) := by decide

/-- V-T9, V-T19, V-T20, V-T23. -/
theorem test_tsetall : trackerAfter (exec (.tsetall 0x8001) State.reset) = (0x8001, 0) ∧
    trackerAfter (exec (.tsetall 0xFFFFFFFFFFFF0000) State.reset) = (0, 0) ∧
    trackerAfter (exec (.tsetall 0x8001) (State.resetFor 8)) = (1, 0) ∧
    trackerAfter (exec (.tsetall 0xFFFFFFFFFFFFFFFE) (State.resetFor 1)) = (0, 0) := by decide

/-- V-T5. -/
theorem test_tcommit : trackerAfter (exec .tcommit (withTracker 16 0x4 0)) = (0x4, 0x4) := by decide

/-- V-T18. -/
theorem test_treset : trackerAfter (exec .treset (withTracker 16 0x4 0x8001)) = (0, 0) := by decide

/-- P3, step 9. -/
theorem test_tdiff : answer (exec .tdiff (withTracker 16 0x8001 0x4)) =
    some (.ok (.changes [⟨1, true, false⟩, ⟨3, false, true⟩, ⟨16, true, false⟩])) := by decide

/-- V-T10, V-T20. -/
theorem test_tstr : answer (exec .tstr (withTracker 16 0x8001 0)) = some (.ok (.chars "1000000000000001".toList)) ∧
    answer (exec .tstr (withTracker 8 1 0)) = some (.ok (.chars "10000000".toList)) := by decide

/-- V-T3, V-T6. -/
theorem test_tchg : answer (exec .tchg (withTracker 16 0x4 0)) = some (.ok (.bit true)) ∧
    answer (exec .tchg (withTracker 16 0x4 0x4)) = some (.ok (.bit false)) := by decide

/-! ## The step and the assembler -/

/-- V-E1, then FREAD: no error state is kept. -/
theorem test_illegal_then_fread :
    answer (step (presenting [0])) = some (.error .illegalOperation) ∧
    answer (Host.Core.run Sys2Proof.core 2 (presenting [0, 0x050000000000000000])) =
      some (.ok (.frame (frameOf []))) := by decide

/-- The word stored for the next step is the one that runs. -/
theorem test_fetch_word : trackerAfter (step (State.reset.withFetchWord 72 0x400000000000000301)) = (0x4, 0) := by decide

/-- R57, R59, R61: comments, names and a pseudo-operation. -/
theorem test_assemble_text : assembleText "FSET d4, 0x2A ; field 9\nFGET foo\nFNEW 1, 2" =
    some [.fset 9 0x2A, .fget 0xFF, .rxclr, .rxput 1, .rxput 2, .fload] := by decide

/-! ## Witnesses: states and operands that meet the hypotheses of the statements, clause by clause -/

/-- EncodeOfDecodeIsTheWord; the first and third clause of LegalWordMatchesExactlyOneRow. -/
theorem test_witness_legal_word : decode 0x400000000000000301 = .ok (.tsetbit 3 true) ∧
    ∃ row ∈ opcodeTable, row.admits 0x400000000000000301 = true ∧ row.mnemonic = (Instr.tsetbit 3 true).mnemonic :=
  ⟨rfl, by decide⟩

/-- ReservedOpcodeIsIllegal, at the ends of the reserved ranges. -/
theorem test_witness_reserved_opcode :
    (∀ opc ∈ ([0x00, 0x08, 0x0F, 0x19, 0x1F, 0x21, 0x2F, 0x31, 0x3F, 0x49, 0xFF] : List Byte),
      ∀ row ∈ opcodeTable, opcodeOf row.pattern ≠ opc) ∧
    (presenting [wordOf 0x49 7]).port = wordOf 0x49 7 :: [] := ⟨by decide, rfl⟩

/-- ReservedBitIsIllegal: SETCMD with `P[9]` set. -/
theorem test_witness_reserved_bit : ∃ row ∈ opcodeTable,
    (presenting [0x120000000000000200]).port = 0x120000000000000200 :: [] ∧
      opcodeOf 0x120000000000000200 = opcodeOf row.pattern ∧
      operandOf 0x120000000000000200 &&& operandOf row.mask ≠ 0#64 :=
  ⟨⟨"SETCMD", 0x120000000000000000, 0xFFFFFFFFFFFF00FE00⟩, by decide, rfl, by decide, by decide⟩

/-- AssemblerNamesAndPseudoOperations: names that are not among the 13; the names are case-sensitive. -/
theorem test_witness_unknown_name :
    "D4" ∉ ["prio", "cmdAndResp", "hashH", "hashL", "dlc", "d0", "d1", "d2", "d3", "d4", "d5", "d6", "d7"] ∧
      fieldCode "D4" = 0xFF := by decide

/-- StepRunsDecodedOperation, its three clauses. -/
theorem test_witness_step : (presenting [0x010000000000000000]).port = 0x010000000000000000 :: [] ∧
    decode 0x010000000000000000 = .ok .fclr ∧ decodeTableWord 72 0x010000000000000000 = some .fclr ∧
      State.reset.port = [] := ⟨rfl, rfl, rfl, rfl⟩

/-- A tracker at both ends of NCH. -/
theorem test_witness_inv : (withTracker 1 1 0).Inv ∧ (withTracker 64 0x8000000000000001 1).Inv ∧ staged13.Inv := by decide

/-- RunPerformsWholeList and StepKeepsInvariant. -/
theorem test_witness_run : let s := { withTracker 16 0x8001 0x4 with port := [0x43FFFFFFFFFFFFFFFF, 0] }
    s.Inv ∧ ∃ t, step s = .next t := ⟨by decide, _, rfl⟩

/-- ResetMeetsInvariant and QueriesAfterReset: both ends of the range. -/
theorem test_witness_channel_counts : ∀ n ∈ [1, 64], 1 ≤ n ∧ n ≤ 64 := by decide

/-- ErrorChangesNothingButStagedCount: an `InvalidFrameLength` and another error. -/
theorem test_witness_errors :
    (∃ t, step (presenting [0x020000000000000000]) = .next t ∧ t.resp = some (.error .invalidFrameLength)) ∧
    (∃ t, step (presenting [0x03000000000000000D]) = .next t ∧ t.resp = some (.error .unknownField)) ∧
    (presenting [0x03000000000000000D]).port ≠ [] := ⟨⟨_, rfl, rfl⟩, ⟨_, rfl, rfl⟩, by decide⟩

/-- NoErrorStateIsKept and StatusIsOneOfTheTable: a legal word and an illegal one. -/
theorem test_witness_words : (presenting [0x010000000000000000]).port = 0x010000000000000000 :: [] ∧
    (presenting [0]).port = 0 :: [] ∧ (presenting [0]).port ≠ [] ∧ decode 0 = .error .reservedOpcode :=
  ⟨rfl, rfl, by decide, rfl⟩

/-- DocumentedOperationSucceeds: FLOAD with 13 bytes and with none, and the boundary operands. -/
theorem test_witness_documented : Instr.fload.documented staged13.nch = true ∧ staged13.rxlen = 13 ∧
    State.reset.rxlen ≠ 13 ∧ (Instr.fget 12).documented 16 = true ∧ (Instr.tseton 16).documented 16 = true := by decide

/-- FloadLoadsExactlyThirteen: 12, 13 and 14 bytes. -/
theorem test_witness_fload : staged13.rxlen.toNat = 13 ∧ ({ staged13 with rxlen := 12 } : State).rxlen.toNat ≠ 13 ∧
    ({ staged13 with rxlen := 14 } : State).rxlen.toNat ≠ 13 := by decide

/-- FgetReadsField, FsetWritesField, FreadAndGetAfterSet: the two clauses meet between 12 and 13. -/
theorem test_witness_field : (12 : Byte).toNat ≤ 12 ∧ 12 < (13 : Byte).toNat ∧ (0 : Byte).toNat ≤ 12 ∧
    (0 : Byte) ≠ 12 := by decide

/-- StagingStoresCountsAndClears: below 13, at 13, and an address apart from the count. -/
theorem test_witness_staging : ({ staged13 with rxlen := 12 } : State).rxlen.toNat < 13 ∧ 13 ≤ staged13.rxlen.toNat ∧
    11 ≠ ({ staged13 with rxlen := 12 } : State).rxlen.toNat := by decide

/-- ThirteenStagedBytesReadBack and BufferLoadsExactlyWhenThirteenBytes: 13 bytes, and one more. -/
theorem test_witness_buffer : State.reset.rxlen = 0 ∧ framePing.length = 13 ∧ (0 :: framePing).length ≠ 13 := by decide

/-- StaleStagedBytesAreUnobservable: two states that differ in a stale byte, with a word presented. -/
theorem test_witness_stale : let s := presenting [0x0600000000000000AA]
    let t := { s with rxbuf := frameOf [0x55] }
    s ≠ t ∧ ObsEq s t ∧ t.port = s.port ∧ s.port ≠ [] :=
  ⟨by decide, ⟨rfl, rfl, rfl, rfl, rfl, fun a h => absurd h (Nat.not_lt_zero a)⟩, rfl, by decide⟩

/-- SetcmdResponseFlagByParity: even, odd, and the wrapping code. -/
theorem test_witness_parity : (0x22 : Byte).toNat % 2 = 0 ∧ (0x23 : Byte).toNat % 2 = 1 ∧ (0xFF : Byte).toNat % 2 = 1 := by
  decide

/-- TwoTogglesRestoreState. -/
theorem test_witness_toggle : (withFrame frameS4).memRead .fr 10 = some 1 ∧
    (Instr.togtrkv 7 = .togtrk ∨ ∃ new, Instr.togtrkv 7 = .togtrkv new) := ⟨by decide, .inr ⟨7, rfl⟩⟩

/-- HashResultsAreExactlyFixedPattern: a value with the fixed bits, and one without. -/
theorem test_witness_pattern : ((0xCB7F : Half) &&& 0x0300 = 0x0300 ∧ (0xCB7F : Half) &&& 0x0080 = 0) ∧
    ¬ ((0xFFFF : Half) &&& 0x0300 = 0x0300 ∧ (0xFFFF : Half) &&& 0x0080 = 0) := by decide

/-- HashEqualsWiring: the ends of the two bit ranges. -/
theorem test_witness_wiring : 0 < 6 ∧ 5 < 6 ∧ 0 < 7 ∧ 6 < 7 := by decide

/-- DecodeAnswersEveryFrame: a command that is not recognised, and a second state with the same frame. -/
theorem test_witness_unknown_command :
    ((withFrame [0, 0x36]).readFr 1 &&& 0xFE).toNat ∉ [0, 2, 4, 6, 8, 10, 12, 14, 16, 22, 34, 48, 58] ∧
    staged13.fr = (withFrame frameS3).fr := by decide

/-- SystemCommandDispatchesOnSubcommand, with a known and an unknown subcommand; DiscoveryDispatchesOnLength, with each of
its four lengths. -/
theorem test_witness_system_and_discovery :
    (∀ d4 ∈ ([0, 1, 2, 3, 4, 5, 8, 9, 10, 11, 12, 47, 48, 49, 255] : List Byte),
      (withFrame [0, 1, 0, 0, 0, 0, 0, 0, 0, d4]).readFr 1 &&& 0xFE = 0) ∧
    ∀ n ∈ ([1, 5, 6, 7] : List Byte), (withFrame [0, 3, 0, 0, n]).readFr 1 &&& 0xFE = 2 ∧
      (withFrame [0, 3, 0, 0, n]).readFr 4 = n := by decide

/-- DeviceIdOnlyCommands: every one of the seven codes, as command and as response. -/
theorem test_witness_device_id_only : ∀ c ∈ ([4, 6, 8, 10, 12, 14, 16] : List Byte),
    ((withFrame [0, c]).readFr 1 &&& 0xFE).toNat = c.toNat ∧
      ((withFrame [0, c + 1]).readFr 1 &&& 0xFE).toNat = c.toNat := by decide

/-- EquipmentSwitchReport with a data length of 8 and of 7. -/
theorem test_witness_equipment : ∀ n ∈ ([7, 8] : List Byte), ((withFrame [0, 0x16, 0, 0, n]).readFr 1 &&& 0xFE).toNat = 22 ∧
    (withFrame [0, 0x16, 0, 0, n]).readFr 4 = n := by decide

/-- TrackStateReportInvertsSettrk. -/
theorem test_witness_track : ((withFrame frameS3).readFr 1 &&& 0xFE).toNat = 34 := by decide

/-- PingAndStatusdataReports: a command and a response; the data lengths 4 to 7. -/
theorem test_witness_ping_and_statusdata :
    (∀ c ∈ ([0x30, 0x31] : List Byte), ((withFrame [0, c]).readFr 1 &&& 0xFE).toNat = 48) ∧
    ((withFrame [0, 0x30]).readFr 1).getLsbD 0 = false ∧ ((withFrame [0, 0x31]).readFr 1).getLsbD 0 = true ∧
    ((frameOf framePing)[1] &&& 0xFE).toNat = 48 ∧ ((frameOf frameS3)[1] &&& 0xFE).toNat ≠ 48 ∧
    ∀ n ∈ ([4, 5, 6, 7] : List Byte), ((withFrame [0, 0x3A, 0, 0, n]).readFr 1 &&& 0xFE).toNat = 58 := by decide

/-- ResetValues: the first and the last address. -/
theorem test_witness_addresses : 0 < 13 ∧ 12 < 13 ∧ State.reset.memRead .fr 12 = some 0 := by decide

/-- ReportEqualsWires: the last kind. -/
theorem test_witness_kind : 21 < 22 ∧ (validMask (frameOf framePing)).getLsbD 21 = true := by decide

/-- SetOperationsWriteOneChannel, CommitThenSetListsThatChannel: the first and the last channel. -/
theorem test_witness_channel : (withTracker 64 0x8000000000000001 1).Inv ∧ 1 ≤ (1 : Byte).toNat ∧
    (1 : Byte).toNat ≤ 64 ∧ 1 ≤ (64 : Byte).toNat ∧ (64 : Byte).toNat ≤ (withTracker 64 0x8000000000000001 1).nch := by
  decide

/-- ChannelOutOfRangeIsRefused: 0 and NCH + 1. -/
theorem test_witness_channel_range : (0 : Byte).toNat = 0 ∧ State.reset.nch < (17 : Byte).toNat := by decide

/-- TsetallWritesEveryChannel, TchgAndTstrReadTracker: channels inside, and above NCH. -/
theorem test_witness_all_channels : 1 ≤ 1 ∧ 16 ≤ State.reset.nch ∧ State.reset.nch < 17 := by decide

/-- TdiffListsChangedChannels: with a change and without one. -/
theorem test_witness_tdiff : (withTracker 16 0x8001 0x4).Inv ∧ (withTracker 16 0x8001 0x4).changed = true ∧
    (withTracker 16 0x4 0x4).changed = false := by decide

/-- OnlyCommitAndResetWritePrevious, TrackerAndFrameAreIndependent, QueriesChangeNoState. -/
theorem test_witness_kinds_of_operation : Instr.tsetall 0xFFFF ≠ .tcommit ∧ Instr.tsetall 0xFFFF ≠ .treset ∧
    isTracker .tcommit = true ∧ isTracker .fload = false ∧ isQuery (.fget 13) = true := by decide

/-- KeepsFrame in the statements of the builder: an address that the operation does not write, inside the space. -/
theorem test_witness_frame_address : 12 ∉ [5, 6, 7, 8, 9, 10] ∧ (withFrame framePing).memRead .fr 12 = some 0x10 := by
  decide

end Sys2Proof.Tests
end

/-! # The invariant along a run (00_scope.md R7, 10_state.md R27, 70_reset_and_hazards.md R201)

An operation writes `CUR` and `PRV` through four updates alone: the copy, the zeroing, one channel in range, and the packed
number under the mask of NCH. Each keeps the bits at and above NCH at 0, so every operation keeps `State.Inv`, hence every
performed word, every step and every run does. -/

namespace Sys2Proof.Machine

/-! ## What is stored at and above NCH -/

/-- Setting a channel 1..NCH stores nothing above channel NCH (R17, R141). -/
theorem setLane_shiftRight_eq_zero {r : Lanes} {k n : Nat} (v : Bool) (hr : r >>> n = 0) (h1 : 1 ≤ k) (hk : k ≤ n)
    (hn : n ≤ 64) : setLane r k v >>> n = 0 := by
  rw [shiftRight_eq_zero_iff] at hr ⊢
  intro j hj
  rw [getLsbD_setLane r v (hk.trans hn) h1, if_neg (by omega), hr j hj]

/-- The mask leaves nothing above channel NCH (R145). -/
theorem and_laneMask_shiftRight_eq_zero (bits : Operand) (n : Nat) : (bits &&& laneMask n) >>> n = 0 := by
  rw [shiftRight_eq_zero_iff]
  intro j hj
  simp [getLsbD_laneMask, Nat.not_lt.mpr hj]

/-! ## The invariant under the updates of the tracker -/

/-- The invariant depends on the tracker registers and NCH alone. -/
theorem State.Inv.congr {s t : State} (hs : s.Inv) (hc : t.cur = s.cur) (hp : t.prv = s.prv) (hn : t.nch = s.nch) :
    t.Inv := by
  unfold State.Inv
  rwa [hc, hp, hn]

/-- Under the invariant `CUR` stores nothing above channel NCH. -/
theorem State.Inv.cur_shiftRight {s : State} (hs : s.Inv) : s.cur >>> s.nch = 0 := by
  obtain ⟨_, _, hcur, _⟩ := hs
  exact hcur

theorem State.Inv.nch_le {s : State} (hs : s.Inv) : s.nch ≤ 64 := by
  obtain ⟨_, hmax, _, _⟩ := hs
  exact hmax

theorem State.Inv.setCur {s : State} {r : Lanes} (hs : s.Inv) (hr : r >>> s.nch = 0) : (s.setCur r).Inv := by
  obtain ⟨hmin, hmax, _, hprv⟩ := hs
  exact ⟨hmin, hmax, hr, hprv⟩

theorem State.Inv.setPrv {s : State} {r : Lanes} (hs : s.Inv) (hr : r >>> s.nch = 0) : (s.setPrv r).Inv := by
  obtain ⟨hmin, hmax, hcur, _⟩ := hs
  exact ⟨hmin, hmax, hcur, hr⟩

/-! ## Operations keep the invariant -/

/-- An operation outside the TRACKER unit writes neither tracker register (10_state.md R19). -/
theorem exec_keeps_cur_prv_of_not_isTracker {i : Instr} {s t : State} (hi : isTracker i = false)
    (h : exec i s = .next t) : t.cur = s.cur ∧ t.prv = s.prv := by
  cases i <;> simp only [isTracker, Bool.true_eq_false] at hi
  case fload =>
    simp only [exec, execFload_eq] at h
    split at h <;> cases h <;> exact ⟨rfl, rfl⟩
  case fget f =>
    by_cases hf : f.toNat < 13
    · cases (execFget_of_lt hf s).symm.trans h; exact ⟨rfl, rfl⟩
    · cases (execFget_of_ge (Nat.not_lt.mp hf) s).symm.trans h; exact ⟨rfl, rfl⟩
  case fset f v =>
    by_cases hf : f.toNat < 13
    · cases (execFset_of_lt hf v s).symm.trans h; exact ⟨rfl, rfl⟩
    · cases (execFset_of_ge (Nat.not_lt.mp hf) v s).symm.trans h; exact ⟨rfl, rfl⟩
  case rxput b => cases h; exact ⟨s.stage_cur b, s.stage_prv b⟩
  all_goals cases h; exact ⟨rfl, rfl⟩

/-- A set operation keeps the invariant: a channel out of range is refused, one in range is below NCH (R141, R144). -/
theorem setChannel_keeps_inv {n : Byte} {v : Bool} {s t : State} (hs : s.Inv) (h : setChannel n v s = .next t) :
    t.Inv := by
  rw [setChannel_eq] at h
  split at h
  case isTrue => cases h; exact hs
  case isFalse hn =>
    cases h
    exact hs.setCur (setLane_shiftRight_eq_zero v hs.cur_shiftRight (by omega) (by omega) hs.nch_le)

/-- Every operation keeps the invariant (R27). -/
theorem exec_keeps_inv {i : Instr} {s t : State} (hs : s.Inv) (h : exec i s = .next t) : t.Inv := by
  by_cases hi : isTracker i = false
  · obtain ⟨hcur, hprv⟩ := exec_keeps_cur_prv_of_not_isTracker hi h
    obtain ⟨t', _, h', _, _, hnch⟩ := exec_answers i s
    cases h'.symm.trans h
    exact hs.congr hcur hprv hnch
  · cases i <;> simp only [isTracker, not_true_eq_false] at hi
    case tsetbit n v => exact setChannel_keeps_inv hs h
    case tseton n => exact setChannel_keeps_inv hs h
    case tsetoff n => exact setChannel_keeps_inv hs h
    case tsetall bits => cases h; exact hs.setCur (and_laneMask_shiftRight_eq_zero bits s.nch)
    case tcommit => cases h; exact hs.setPrv hs.cur_shiftRight
    case treset => cases h; exact (hs.setCur BitVec.zero_ushiftRight).setPrv BitVec.zero_ushiftRight
    all_goals cases h; exact hs

/-! ## Words, steps and runs -/

/-- Every word is answered, a legal one by its operation and an illegal one by the error (R48, R183). -/
theorem performWord_answers (w : OpWord) (s : State) :
    ∃ t r, performWord w s = .next t ∧ t.resp = some r ∧ t.port = s.port ∧ t.nch = s.nch := by
  cases hd : decode w with
  | error e => exact ⟨_, _, performWord_error hd s, rfl, rfl, rfl⟩
  | ok i => rw [performWord_ok hd]; exact exec_answers i s

theorem performWord_keeps_inv {w : OpWord} {s t : State} (hs : s.Inv) (h : performWord w s = .next t) : t.Inv := by
  cases hd : decode w with
  | error e => rw [performWord_error hd] at h; cases h; exact hs
  | ok i => rw [performWord_ok hd] at h; exact exec_keeps_inv hs h

/-- A step takes exactly the host's first word and answers it (R5, R7). -/
theorem step_answers_first_word {s : State} {w : OpWord} {rest : List OpWord} (h : s.port = w :: rest) :
    ∃ t r, step s = .next t ∧ t.resp = some r ∧ t.port = rest ∧ t.nch = s.nch := by
  rw [step_cons h]
  exact performWord_answers w { s with port := rest }

/-- Every step keeps the invariant, with a word presented or without one (R27). -/
theorem step_keeps_inv {s t : State} (hs : s.Inv) (h : step s = .next t) : t.Inv := by
  cases hp : s.port with
  | nil => rw [step_nil hp] at h; cases h; exact hs
  | cons w rest =>
    rw [step_cons hp] at h
    exact performWord_keeps_inv (s := { s with port := rest }) hs h

/-- A run of one step more is the run from the state that the first step reaches. -/
theorem run_succ {s t : State} (h : step s = .next t) (k : Nat) :
    Host.Core.run Sys2Proof.core (k + 1) s = Host.Core.run Sys2Proof.core k t := by
  simp only [Host.Core.run, Sys2Proof.core, h]

/-- A run performs the whole list that the host has presented, whatever its words are (R7, R201). -/
theorem run_performs_port (ws : List OpWord) (s : State) (hp : s.port = ws) :
    ∃ t, Host.Core.run Sys2Proof.core ws.length s = .next t ∧ t.port = [] ∧ t.nch = s.nch ∧ (s.Inv → t.Inv) := by
  induction ws generalizing s with
  | nil => exact ⟨s, rfl, hp, rfl, id⟩
  | cons w rest ih =>
    obtain ⟨u, _, hstep, _, hport, hnch⟩ := step_answers_first_word hp
    obtain ⟨t, hrun, hempty, hnch', hinv⟩ := ih u hport
    exact ⟨t, (run_succ hstep rest.length).trans hrun, hempty, hnch'.trans hnch, fun hs => hinv (step_keeps_inv hs hstep)⟩

/-- Settles O9, by induction on the words that the host has presented. -/
theorem runPerformsWholeList : Obligations.RunPerformsWholeList :=
  fun s => run_performs_port s.port s rfl

end Sys2Proof.Machine

/-! # The frame unit and the tracker side by side (10_state.md R14, R19, R26, R27)

A register that an operation does not read can hold anything: the operation then does the same and leaves that register
alone. For `CUR` and `PRV` this holds of every operation outside the TRACKER unit, for `FR`, `RXBUF` and `RXLEN` of
every operation in it, and for `RXBUF` of every operation but RXPUT and FLOAD. These two keep stale bytes out of sight:
RXPUT extends the staged bytes by one, and FLOAD reads `RXBUF` only when all 13 are staged. -/

namespace Sys2Proof.Machine

/-! ## The invariant at reset and along a step -/

theorem step_keeps_nch {s t : State} (h : step s = .next t) : t.nch = s.nch := by
  cases hp : s.port with
  | nil => cases (step_nil hp).symm.trans h; rfl
  | cons w rest =>
    obtain ⟨t', _, h', _, _, hnch⟩ := step_answers_first_word hp
    cases h'.symm.trans h
    exact hnch

/-- Settles O10: the invariant from the four updates of the tracker registers, NCH because no operation writes it. -/
theorem stepKeepsInvariant : Obligations.StepKeepsInvariant :=
  fun _ _ hs h => ⟨step_keeps_inv hs h, step_keeps_nch h⟩

theorem State.resetFor_inv {n : Nat} (h1 : 1 ≤ n) (h64 : n ≤ 64) : (State.resetFor n).Inv :=
  ⟨h1, h64, BitVec.zero_ushiftRight, BitVec.zero_ushiftRight⟩

/-- Settles O11: a register that holds 0 stores nothing above any channel. -/
theorem resetMeetsInvariant : Obligations.ResetMeetsInvariant :=
  ⟨fun _ => State.resetFor_inv, State.resetFor_inv (by decide) (by decide)⟩

/-! ## Registers that an operation does not read -/

/-- An operation outside the TRACKER unit does the same whatever `CUR` and `PRV` hold (R19). -/
theorem exec_with_cur_prv {i : Instr} {s t : State} (hi : isTracker i = false) (h : exec i s = .next t)
    (c p : Lanes) : exec i { s with cur := c, prv := p } = .next { t with cur := c, prv := p } := by
  cases i <;> simp only [isTracker, Bool.true_eq_false] at hi
  case fload =>
    simp only [exec, execFload_eq] at h ⊢
    split at h
    case isTrue hlen => cases h; exact if_pos hlen
    case isFalse hlen => cases h; exact if_neg hlen
  case fget f =>
    simp only [exec, execFget] at h ⊢
    split at h <;> cases h <;> rfl
  case fset f v =>
    simp only [exec, execFset] at h ⊢
    split at h <;> cases h <;> rfl
  case rxput b =>
    cases h
    simp only [exec, execRxput, State.stage]
    split <;> rfl
  all_goals cases h; rfl

/-- A set operation of the tracker does the same whatever `FR`, `RXBUF` and `RXLEN` hold (R19, R141). -/
theorem setChannel_with_frame_unit {n : Byte} {v : Bool} {s t : State} (h : setChannel n v s = .next t) (fr : Frame)
    (rb : Vector Byte 13) (len : BitVec 8) :
    setChannel n v { s with fr := fr, rxbuf := rb, rxlen := len } =
      .next { t with fr := fr, rxbuf := rb, rxlen := len } := by
  rw [setChannel_eq] at h ⊢
  split at h
  case isTrue hn => cases h; exact if_pos hn
  case isFalse hn => cases h; exact if_neg hn

/-- A tracker operation does the same whatever `FR`, `RXBUF` and `RXLEN` hold (R19). -/
theorem exec_with_frame_unit {i : Instr} {s t : State} (hi : isTracker i = true) (h : exec i s = .next t) (fr : Frame)
    (rb : Vector Byte 13) (n : BitVec 8) :
    exec i { s with fr := fr, rxbuf := rb, rxlen := n } = .next { t with fr := fr, rxbuf := rb, rxlen := n } := by
  cases i <;> simp only [isTracker, Bool.false_eq_true] at hi
  case tsetbit m v => exact setChannel_with_frame_unit h fr rb n
  case tseton m => exact setChannel_with_frame_unit h fr rb n
  case tsetoff m => exact setChannel_with_frame_unit h fr rb n
  all_goals cases h; rfl

/-- A tracker operation leaves `FR`, `RXBUF` and `RXLEN` alone: with the values that they hold it leaves those (R19). -/
theorem exec_keeps_frame_unit_of_isTracker {i : Instr} {s t : State} (hi : isTracker i = true)
    (h : exec i s = .next t) : t.fr = s.fr ∧ t.rxbuf = s.rxbuf ∧ t.rxlen = s.rxlen := by
  have ht : t = { t with fr := s.fr, rxbuf := s.rxbuf, rxlen := s.rxlen } :=
    Host.Outcome.next.inj (h.symm.trans (exec_with_frame_unit hi h s.fr s.rxbuf s.rxlen))
  rw [ht]
  exact ⟨rfl, rfl, rfl⟩

/-- Settles O59, one case for each side of the split into units. -/
theorem trackerAndFrameAreIndependent : Obligations.TrackerAndFrameAreIndependent := by
  intro i s
  obtain ⟨t, _, h, _, _, _⟩ := exec_answers i s
  refine ⟨t, h, fun hi => ?_, fun hi => ?_⟩
  · obtain ⟨hcur, hprv⟩ := exec_keeps_cur_prv_of_not_isTracker hi h
    exact ⟨hcur, hprv, exec_with_cur_prv hi h⟩
  · obtain ⟨hfr, hrxbuf, hrxlen⟩ := exec_keeps_frame_unit_of_isTracker hi h
    exact ⟨hfr, hrxbuf, hrxlen, exec_with_frame_unit hi h⟩

/-! ## Stale bytes of `RXBUF` -/

/-- Both outcomes are next states that no operation can tell apart, with the same response. -/
def SameAnswer (o o' : Out) : Prop :=
  ∃ s t, o = .next s ∧ o' = .next t ∧ ObsEq s t ∧ t.resp = s.resp

/-- What `ObsEq` leaves open, as an update of the first state. -/
theorem ObsEq.exists_eq {s t : State} (h : ObsEq s t) :
    ∃ rb ws r, t = { s with rxbuf := rb, port := ws, resp := r } := by
  obtain ⟨hfr, hlen, hcur, hprv, hnch, _⟩ := h
  refine ⟨t.rxbuf, t.port, t.resp, ?_⟩
  rw [← hfr, ← hlen, ← hcur, ← hprv, ← hnch]

/-- With all 13 bytes staged nothing in `RXBUF` is stale (R14). -/
theorem ObsEq.rxbuf_eq {s t : State} (h : ObsEq s t) (hlen : s.rxlen = 13) : t.rxbuf = s.rxbuf := by
  obtain ⟨_, _, _, _, _, hstaged⟩ := h
  refine Vector.ext fun a ha => ?_
  have hbyte := hstaged a (hlen ▸ ha)
  rw [memRead_of_lt _ _ ha, memRead_of_lt _ _ ha] at hbyte
  exact Option.some.inj hbyte

/-- FLOAD reads `RXBUF` only when all of it has been staged, and nothing is staged after it (R66). -/
theorem ObsEq.sameAnswer_execFload {s t : State} (h : ObsEq s t) : SameAnswer (execFload s) (execFload t) := by
  obtain ⟨rb, ws, r, rfl⟩ := h.exists_eq
  by_cases hlen : s.rxlen = 13
  · have hrb : rb = s.rxbuf := h.rxbuf_eq hlen
    subst hrb
    exact ⟨_, _, if_pos hlen, if_pos hlen, ⟨rfl, rfl, rfl, rfl, rfl, fun _ _ => rfl⟩, rfl⟩
  · exact ⟨_, _, if_neg hlen, if_neg hlen, ⟨rfl, rfl, rfl, rfl, rfl, fun a ha => absurd ha a.not_lt_zero⟩, rfl⟩

/-- RXPUT writes the one byte that the count then takes in (R70). -/
theorem ObsEq.stage {s t : State} (h : ObsEq s t) (b : Byte) : ObsEq (s.stage b) (t.stage b) := by
  obtain ⟨hfr, hlen, hcur, hprv, hnch, hstaged⟩ := h
  refine ⟨by simp [hfr], by simp [hlen], by simp [hcur], by simp [hprv], by simp [hnch], fun a ha => ?_⟩
  rw [State.stage_rxlen, rxlenNext_toNat] at ha
  rw [memRead_stage, memRead_stage, hlen]
  split
  case isTrue => rfl
  case isFalse hnew =>
    by_cases ha13 : a < 13
    · exact hstaged a (by omega)
    · rw [memRead_of_ge _ _ (Nat.not_lt.mp ha13), memRead_of_ge _ _ (Nat.not_lt.mp ha13)]

/-- A set operation of the tracker keeps the staged bytes and their count. -/
theorem ObsEq.sameAnswer_setChannel {s t : State} (h : ObsEq s t) (n : Byte) (v : Bool) :
    SameAnswer (setChannel n v s) (setChannel n v t) := by
  obtain ⟨rb, ws, r, rfl⟩ := h.exists_eq
  obtain ⟨_, _, _, _, _, hstaged⟩ := h
  simp only [setChannel]
  split <;> exact ⟨_, _, rfl, rfl, ⟨rfl, rfl, rfl, rfl, rfl, hstaged⟩, rfl⟩

/-- No operation tells the two states apart: all but RXPUT and FLOAD, whatever `RXBUF` holds (R14). -/
theorem ObsEq.sameAnswer_exec {s t : State} (h : ObsEq s t) (i : Instr) : SameAnswer (exec i s) (exec i t) := by
  obtain ⟨rb, ws, r, rfl⟩ := h.exists_eq
  have ⟨_, _, _, _, _, hstaged⟩ := h
  cases i
  case fload => exact h.sameAnswer_execFload
  case rxput b => exact ⟨_, _, rfl, rfl, h.stage b, rfl⟩
  case rxclr => exact ⟨_, _, rfl, rfl, ⟨rfl, rfl, rfl, rfl, rfl, fun a ha => absurd ha a.not_lt_zero⟩, rfl⟩
  case fget f =>
    simp only [exec, execFget]
    split <;> exact ⟨_, _, rfl, rfl, ⟨rfl, rfl, rfl, rfl, rfl, hstaged⟩, rfl⟩
  case fset f v =>
    simp only [exec, execFset]
    split <;> exact ⟨_, _, rfl, rfl, ⟨rfl, rfl, rfl, rfl, rfl, hstaged⟩, rfl⟩
  case tsetbit n v => exact h.sameAnswer_setChannel n v
  case tseton n => exact h.sameAnswer_setChannel n true
  case tsetoff n => exact h.sameAnswer_setChannel n false
  all_goals exact ⟨_, _, rfl, rfl, ⟨rfl, rfl, rfl, rfl, rfl, hstaged⟩, rfl⟩

theorem ObsEq.sameAnswer_performWord {s t : State} (h : ObsEq s t) (w : OpWord) :
    SameAnswer (performWord w s) (performWord w t) := by
  cases hd : decode w with
  | error e => exact ⟨_, _, performWord_error hd s, performWord_error hd t, h, rfl⟩
  | ok i => rw [performWord_ok hd, performWord_ok hd]; exact h.sameAnswer_exec i

/-- Two such states with the same words presented step to two such states; the responses are equal if a word is
performed, or if they were before. -/
theorem ObsEq.step {s t : State} (h : ObsEq s t) (hport : t.port = s.port) :
    ∃ s' t', step s = .next s' ∧ step t = .next t' ∧ ObsEq s' t' ∧ t'.port = s'.port ∧
      (s.port ≠ [] ∨ t.resp = s.resp → t'.resp = s'.resp) := by
  cases hs : s.port with
  | nil => exact ⟨s, t, step_nil hs, step_nil (hport.trans hs), h, hport, fun hr => hr.resolve_left (· rfl)⟩
  | cons w rest =>
    have ht : t.port = w :: rest := hport.trans hs
    have hpop : ObsEq { s with port := rest } { t with port := rest } := h
    obtain ⟨s', t', hs', ht', hobs, hresp⟩ := hpop.sameAnswer_performWord w
    rw [← step_cons hs] at hs'
    rw [← step_cons ht] at ht'
    obtain ⟨_, _, hs'', _, hsrest, _⟩ := step_answers_first_word hs
    obtain ⟨_, _, ht'', _, htrest, _⟩ := step_answers_first_word ht
    cases hs''.symm.trans hs'
    cases ht''.symm.trans ht'
    exact ⟨s', t', hs', ht', hobs, htrest.trans hsrest.symm, fun _ => hresp⟩

/-- Settles O27: the relation of R14 along one step. -/
theorem staleStagedBytesAreUnobservable : Obligations.StaleStagedBytesAreUnobservable := by
  intro s t h hport
  obtain ⟨s', t', hs, ht, hobs, hport', hresp⟩ := h.step hport
  exact ⟨s', t', hs, ht, hobs, hport', fun hne => hresp (.inl hne)⟩

/-- Along a run of any length the two states keep answering the same. -/
theorem ObsEq.run {s t : State} (h : ObsEq s t) (hport : t.port = s.port) (hresp : t.resp = s.resp) (k : Nat) :
    ∃ s' t', Host.Core.run Sys2Proof.core k s = .next s' ∧ Host.Core.run Sys2Proof.core k t = .next t' ∧
      t'.resp = s'.resp := by
  induction k generalizing s t with
  | zero => exact ⟨s, t, rfl, rfl, hresp⟩
  | succ k ih =>
    obtain ⟨s', t', hs, ht, hobs, hport', hresp'⟩ := h.step hport
    rw [run_succ hs, run_succ ht]
    exact ih hobs hport' (hresp' (.inr hresp))

/-! ## The values after reset -/

/-- Nothing has been staged at reset, so all of `RXBUF` is stale (R14, R26). -/
theorem obsEq_resetFor_with_rxbuf (n : Nat) (ws : List OpWord) (rb : Vector Byte 13) :
    ObsEq { State.resetFor n with port := ws } { State.resetFor n with port := ws, rxbuf := rb } :=
  ⟨rfl, rfl, rfl, rfl, rfl, fun a ha => absurd ha a.not_lt_zero⟩

theorem memRead_fr_resetFor (n : Nat) {a : Nat} (ha : a < 13) : (State.resetFor n).memRead .fr a = some 0 := by
  rw [memRead_of_lt _ _ ha, space_fr, State.resetFor_fr, Vector.getElem_replicate]

@[simp] theorem curChan_resetFor (n k : Nat) : (State.resetFor n).curChan k = false := laneOf_zero n k

@[simp] theorem prvChan_resetFor (n k : Nat) : (State.resetFor n).prvChan k = false := laneOf_zero n k

theorem changed_resetFor (n : Nat) : (State.resetFor n).changed = false := by simp [State.changed]

/-- Settles O16: the registers from the reset state, the unobservable `RXBUF` from the relation of R14 along the run. -/
theorem resetValues : Obligations.ResetValues := by
  refine ⟨fun n => ⟨fun a => memRead_fr_resetFor n, rfl, fun k => ⟨curChan_resetFor n k, prvChan_resetFor n k⟩,
    changed_resetFor n, rfl⟩, rfl, fun n k rb ws => ?_⟩
  exact (obsEq_resetFor_with_rxbuf n ws rb).run rfl rfl k

end Sys2Proof.Machine

/-! # The reading operations (20_memory.md R38)

A reading operation writes the response and nothing else, and what it answers does not depend on the response before it.
So the state that it leaves differs from the one it found only in what it does not read, and doing it again answers the
same. -/

namespace Sys2Proof.Machine

/-- The last response is the one field that `KeepsAll` leaves open. -/
theorem keepsAll_with_resp (s : State) (r : Option Response) : KeepsAll s { s with resp := r } :=
  keepsAll_of_fields rfl rfl rfl rfl rfl rfl rfl

/-- FGET answers the byte of a field 0..12 and the error above, whatever was answered before it (R67). -/
theorem execFget_answers_with_resp (f : Byte) (s : State) :
    ∃ a, ∀ r, execFget f { s with resp := r } = .next { s with resp := some a } := by
  by_cases hf : f.toNat < 13
  · exact ⟨.ok (.byte (s.readFr ⟨f.toNat, hf⟩)), fun _ => execFget_of_lt hf _⟩
  · exact ⟨.error .unknownField, fun _ => execFget_of_ge (Nat.not_lt.mp hf) _⟩

/-- A reading operation writes its response alone, and the same one whatever was answered before it (R38). -/
theorem exec_answers_with_resp_of_isQuery {i : Instr} (hi : isQuery i = true) (s : State) :
    ∃ a, ∀ r, exec i { s with resp := r } = .next { s with resp := some a } := by
  cases i <;> simp only [isQuery, Bool.false_eq_true] at hi
  case fget f => exact execFget_answers_with_resp f s
  case fread => exact ⟨.ok (.frame s.fr), fun _ => rfl⟩
  case fresp => exact ⟨.ok (.frame (responseFrame s.fr)), fun _ => rfl⟩
  case hash id => exact ⟨.ok (.hash (addressHash id)), fun _ => rfl⟩
  case decode => exact ⟨.ok (.report (report s.fr)), fun _ => rfl⟩
  case tdiff => exact ⟨.ok (.changes s.changes), fun _ => rfl⟩
  case tstr => exact ⟨.ok (.chars s.shortString), fun _ => rfl⟩
  case tchg => exact ⟨.ok (.bit s.changed), fun _ => rfl⟩

/-- Settles O60: the second time, the operation runs in a state that differs from the first in the response alone. -/
theorem queriesChangeNoState : Obligations.QueriesChangeNoState := by
  intro i s hi
  obtain ⟨a, ha⟩ := exec_answers_with_resp_of_isQuery hi s
  exact ⟨_, a, _, ha s.resp, rfl, keepsAll_with_resp s _, ha (some a), rfl, keepsAll_with_resp _ _⟩

end Sys2Proof.Machine

/-! # The encoding of the operations (30_encoding.md R45 to R62)

The operand field of a word is the layout of some operands exactly when no reserved bit is set and each field holds its
operand: one lemma for each layout, both sides compared bit by bit. Read from left to right it is what the decoder finds
in an encoded word, read from right to left it is what the encoder makes of a legal word, so the two round trips are
case splits over `Instr` and over `opcodeMap`. The table of match and mask is the decoder's map row by row. -/

namespace Sys2Proof

/-! ## Equations of operands as conditions on bits -/

theorem operand_eq_iff (p q : Operand) : p = q ↔ ∀ i, p.getLsbD i = q.getLsbD i :=
  ⟨fun h _ => h ▸ rfl, fun h => BitVec.eq_of_getLsbD_eq fun i _ => h i⟩

theorem and_reserved_eq_zero_iff {p reserved : Operand} {P : Nat → Prop} [DecidablePred P]
    (hr : ∀ i, i < 64 → reserved.getLsbD i = decide (P i)) :
    p &&& reserved = 0#64 ↔ ∀ i, P i → p.getLsbD i = false :=
  ⟨reserved_bit_eq_false hr, fun h => and_reserved_eq_zero hr fun i _ => h i⟩

theorem byteField_eq_iff (p : Operand) (lo : Nat) (b : Byte) :
    byteField p lo = b ↔ ∀ i, lo ≤ i → i < lo + 8 → p.getLsbD i = b.getLsbD (i - lo) := by
  constructor
  · rintro rfl i hlo hi
    rw [getLsbD_byteField, Nat.add_sub_cancel' hlo, decide_eq_true (by omega), Bool.true_and]
  · exact fun h => byteField_eq fun i hi => by rw [h _ (by omega) (by omega), Nat.add_sub_cancel_left]

theorem halfField_eq_iff (p : Operand) (lo : Nat) (h : Half) :
    halfField p lo = h ↔ ∀ i, lo ≤ i → i < lo + 16 → p.getLsbD i = h.getLsbD (i - lo) := by
  constructor
  · rintro rfl i hlo hi
    rw [getLsbD_halfField, Nat.add_sub_cancel' hlo, decide_eq_true (by omega), Bool.true_and]
  · exact fun hb => halfField_eq fun i hi => by rw [hb _ (by omega) (by omega), Nat.add_sub_cancel_left]

/-! ## Each layout by its reserved bits and its fields (R46, R49, R50) -/

/-- An operation without operands reserves all of `P`. -/
theorem eq_zero_iff_and_reserved {p : Operand} : p = 0#64 ↔ p &&& 0xFFFFFFFFFFFFFFFF#64 = 0#64 := by
  rw [show p &&& 0xFFFFFFFFFFFFFFFF#64 = p from BitVec.and_allOnes]

theorem eq_oneByte_iff {p : Operand} {b : Byte} :
    p = oneByte b ↔ p &&& 0xFFFFFFFFFFFFFF00#64 = 0#64 ∧ byteField p 0 = b := by
  rw [and_reserved_eq_zero_iff reserved_above_8, byteField_eq_iff, operand_eq_iff]
  simp only [getLsbD_oneByte]
  grind

theorem eq_fieldAndByte_iff {p : Operand} {f v : Byte} :
    p = fieldAndByte f v ↔ p &&& 0xFFFFFFFFFFFF0000#64 = 0#64 ∧ byteField p 8 = f ∧ byteField p 0 = v := by
  rw [and_reserved_eq_zero_iff reserved_above_16, byteField_eq_iff, byteField_eq_iff, operand_eq_iff]
  simp only [getLsbD_fieldAndByte]
  grind

theorem eq_commandOperand_iff {p : Operand} {code : Byte} {r : Bool} {dlc : Byte} :
    p = commandOperand code r dlc ↔ p &&& 0xFFFFFFFFFF00FE00#64 = 0#64 ∧
      byteField p 0 = code ∧ bitField p 8 = r ∧ byteField p 16 = dlc := by
  rw [and_reserved_eq_zero_iff reserved_setcmd, byteField_eq_iff, byteField_eq_iff, operand_eq_iff]
  simp only [getLsbD_commandOperand, bitField]
  grind

theorem eq_oneHalf_iff {p : Operand} {h : Half} :
    p = oneHalf h ↔ p &&& 0xFFFFFFFFFFFF0000#64 = 0#64 ∧ halfField p 0 = h := by
  rw [and_reserved_eq_zero_iff reserved_above_16, halfField_eq_iff, operand_eq_iff]
  simp only [getLsbD_oneHalf]
  grind

theorem eq_twoHalves_iff {p : Operand} {dev sub : Half} :
    p = twoHalves dev sub ↔ p &&& 0xFFFFFFFF00000000#64 = 0#64 ∧ halfField p 16 = dev ∧ halfField p 0 = sub := by
  rw [and_reserved_eq_zero_iff reserved_above_32, halfField_eq_iff, halfField_eq_iff, operand_eq_iff]
  simp only [getLsbD_twoHalves]
  grind

theorem eq_trackOperand_iff {p : Operand} {dev sub : Half} {state recent : Byte} :
    p = trackOperand dev sub state recent ↔ p &&& 0xFFFF000000000000#64 = 0#64 ∧
      halfField p 32 = dev ∧ halfField p 16 = sub ∧ byteField p 8 = state ∧ byteField p 0 = recent := by
  rw [and_reserved_eq_zero_iff reserved_above_48, halfField_eq_iff, halfField_eq_iff, byteField_eq_iff,
    byteField_eq_iff, operand_eq_iff]
  simp only [getLsbD_trackOperand]
  grind

theorem eq_channelAndBit_iff {p : Operand} {n : Byte} {v : Bool} :
    p = channelAndBit n v ↔ p &&& 0xFFFFFFFFFFFF00FE#64 = 0#64 ∧ byteField p 8 = n ∧ bitField p 0 = v := by
  rw [and_reserved_eq_zero_iff reserved_tsetbit, byteField_eq_iff, operand_eq_iff]
  simp only [getLsbD_channelAndBit, bitField]
  grind

/-! ## The two round trips -/

/-- A word is legal when its opcode is in the map and no bit is set that the map reserves for it (R48, R49). -/
theorem decode_eq_ok_iff (w : OpWord) (i : Instr) :
    decode w = .ok i ↔ ∃ reserved, opcodeMap (opcodeOf w).toNat (operandOf w) = some (reserved, i) ∧
      operandOf w &&& reserved = 0#64 := by
  cases h : opcodeMap (opcodeOf w).toNat (operandOf w) with
  | none => simp [decode, h]
  | some row =>
    obtain ⟨reserved, j⟩ := row
    by_cases hr : operandOf w &&& reserved = 0#64
    · simp [decode, h, hr]
    · simp only [decode, h, if_neg hr, reduceCtorEq, false_iff]
      rintro ⟨_, hrow, hr'⟩
      cases hrow
      exact hr hr'

theorem decode_wordOf_of_opcodeMap {opc : Byte} {p reserved : Operand} {i : Instr}
    (h : opcodeMap opc.toNat p = some (reserved, i)) (hr : p &&& reserved = 0#64) : decode (wordOf opc p) = .ok i := by
  rw [decode_eq_ok_iff, opcodeOf_wordOf, operandOf_wordOf]
  exact ⟨reserved, h, hr⟩

/-- The decoder finds in an encoded word no reserved bit set, and the operands in their fields. -/
theorem decode_encode (i : Instr) : decode (encode i) = .ok i := by
  cases i
  case fget b | rxput b | setprio b | setdlc b | togtrkv b | tseton b | tsetoff b =>
    obtain ⟨hr, hb⟩ := eq_oneByte_iff.mp (rfl : oneByte b = _)
    exact (decode_wordOf_of_opcodeMap rfl hr).trans (by rw [hb])
  case fset f v =>
    obtain ⟨hr, hf, hv⟩ := eq_fieldAndByte_iff.mp (rfl : fieldAndByte f v = _)
    exact (decode_wordOf_of_opcodeMap rfl hr).trans (by rw [hf, hv])
  case setcmd code r dlc =>
    obtain ⟨hr, hcode, hflag, hdlc⟩ := eq_commandOperand_iff.mp (rfl : commandOperand code r dlc = _)
    exact (decode_wordOf_of_opcodeMap rfl hr).trans (by rw [hcode, hflag, hdlc])
  case sethash h =>
    obtain ⟨hr, hh⟩ := eq_oneHalf_iff.mp (rfl : oneHalf h = _)
    exact (decode_wordOf_of_opcodeMap rfl hr).trans (by rw [hh])
  case setdev dev sub =>
    obtain ⟨hr, hdev, hsub⟩ := eq_twoHalves_iff.mp (rfl : twoHalves dev sub = _)
    exact (decode_wordOf_of_opcodeMap rfl hr).trans (by rw [hdev, hsub])
  case settrk dev sub state recent =>
    obtain ⟨hr, hdev, hsub, hstate, hrecent⟩ := eq_trackOperand_iff.mp (rfl : trackOperand dev sub state recent = _)
    exact (decode_wordOf_of_opcodeMap rfl hr).trans (by rw [hdev, hsub, hstate, hrecent])
  case tsetbit n v =>
    obtain ⟨hr, hn, hv⟩ := eq_channelAndBit_iff.mp (rfl : channelAndBit n v = _)
    exact (decode_wordOf_of_opcodeMap rfl hr).trans (by rw [hn, hv])
  case hash p | tsetall p => exact decode_wordOf_of_opcodeMap rfl BitVec.and_zero
  all_goals exact decode_wordOf_of_opcodeMap rfl BitVec.zero_and

/-- Settles O1, by cases on the operation, one for each layout. -/
theorem decodeOfEncodeIsTheOperation : Obligations.DecodeOfEncodeIsTheOperation := decode_encode

/-- The operation that the map gives an operand field without reserved bits lays out that operand field. The cases bear
the numbers of the lines of `opcodeMap`, and are grouped by layout. -/
theorem encode_of_opcodeMap {n : Nat} {p reserved : Operand} {i : Instr} (h : opcodeMap n p = some (reserved, i))
    (hr : p &&& reserved = 0#64) : encode i = wordOf (BitVec.ofNat 8 n) p := by
  unfold opcodeMap at h
  split at h <;> cases h
  case h_3 | h_6 | h_8 | h_9 | h_15 | h_20 | h_21 => exact congrArg (wordOf _) (eq_oneByte_iff.mpr ⟨hr, rfl⟩).symm
  case h_4 => exact congrArg (wordOf _) (eq_fieldAndByte_iff.mpr ⟨hr, rfl, rfl⟩).symm
  case h_10 => exact congrArg (wordOf _) (eq_commandOperand_iff.mpr ⟨hr, rfl, rfl, rfl⟩).symm
  case h_11 => exact congrArg (wordOf _) (eq_oneHalf_iff.mpr ⟨hr, rfl⟩).symm
  case h_12 => exact congrArg (wordOf _) (eq_twoHalves_iff.mpr ⟨hr, rfl, rfl⟩).symm
  case h_13 => exact congrArg (wordOf _) (eq_trackOperand_iff.mpr ⟨hr, rfl, rfl, rfl, rfl⟩).symm
  case h_19 => exact congrArg (wordOf _) (eq_channelAndBit_iff.mpr ⟨hr, rfl, rfl⟩).symm
  case h_17 | h_22 => rfl
  all_goals exact congrArg (wordOf _) (eq_zero_iff_and_reserved.mpr hr).symm

theorem encode_of_decode {w : OpWord} {i : Instr} (h : decode w = .ok i) : encode i = w := by
  obtain ⟨reserved, hmap, hr⟩ := (decode_eq_ok_iff w i).mp h
  rw [encode_of_opcodeMap hmap hr, BitVec.ofNat_toNat, BitVec.setWidth_eq, wordOf_parts]

/-- Settles O2: the operation is the one that the map gives the word's opcode, and no reserved bit is set. -/
theorem encodeOfDecodeIsTheWord : Obligations.EncodeOfDecodeIsTheWord := fun _ _ => encode_of_decode

/-! ## The table of match and mask (R50) -/

theorem opcodes_nodup : (opcodeTable.map fun row => opcodeOf row.pattern).Nodup := by decide

theorem admits_iff_of_mem {row : OpcodeRow} (hrow : row ∈ opcodeTable) (w : OpWord) :
    row.admits w = true ↔ opcodeOf w = opcodeOf row.pattern ∧ operandOf w &&& operandOf row.mask = 0#64 := by
  obtain ⟨hmask, hpattern⟩ := opcodeTable_form row hrow
  exact admits_iff hmask hpattern w

/-- The map gives the opcode of each row that row's mask as reserved bits, and an operation of its mnemonic. -/
theorem opcodeMap_of_row {row : OpcodeRow} (hrow : row ∈ opcodeTable) (p : Operand) :
    ∃ i, opcodeMap (opcodeOf row.pattern).toNat p = some (operandOf row.mask, i) ∧ i.mnemonic = row.mnemonic := by
  unfold opcodeTable frameRows builderRows otherRows at hrow
  fin_cases hrow <;> exact ⟨_, rfl, rfl⟩

theorem decode_of_row {row : OpcodeRow} (hrow : row ∈ opcodeTable) {w : OpWord}
    (hopc : opcodeOf w = opcodeOf row.pattern) : ∃ i, i.mnemonic = row.mnemonic ∧
      decode w = if operandOf w &&& operandOf row.mask = 0#64 then .ok i else .error .reservedBit := by
  obtain ⟨i, hmap, hname⟩ := opcodeMap_of_row hrow (operandOf w)
  exact ⟨i, hname, by rw [decode, hopc, hmap]⟩

theorem decode_of_admits {row : OpcodeRow} (hrow : row ∈ opcodeTable) {w : OpWord} (hw : row.admits w = true) :
    ∃ i, i.mnemonic = row.mnemonic ∧ decode w = .ok i := by
  obtain ⟨hopc, hr⟩ := (admits_iff_of_mem hrow w).mp hw
  obtain ⟨i, hname, hd⟩ := decode_of_row hrow hopc
  exact ⟨i, hname, hd.trans (if_pos hr)⟩

theorem encode_matches_row (i : Instr) : Laws.Encode.Statement i := by
  cases i
  exacts [Laws.Encode.fclr, Laws.Encode.fload, Laws.Encode.fget _, Laws.Encode.fset _ _, Laws.Encode.fread,
    Laws.Encode.rxput _, Laws.Encode.rxclr, Laws.Encode.setprio _, Laws.Encode.setdlc _, Laws.Encode.setcmd _ _ _,
    Laws.Encode.sethash _, Laws.Encode.setdev _ _, Laws.Encode.settrk _ _ _ _, Laws.Encode.togtrk,
    Laws.Encode.togtrkv _, Laws.Encode.fresp, Laws.Encode.hash _, Laws.Encode.decode, Laws.Encode.tsetbit _ _,
    Laws.Encode.tseton _, Laws.Encode.tsetoff _, Laws.Encode.tsetall _, Laws.Encode.tcommit, Laws.Encode.treset,
    Laws.Encode.tdiff, Laws.Encode.tstr, Laws.Encode.tchg]

/-- A legal word has the opcode of a row, because it is the word of an operation. -/
theorem exists_row_opcode_of_decode {w : OpWord} {i : Instr} (h : decode w = .ok i) :
    ∃ row ∈ opcodeTable, opcodeOf w = opcodeOf row.pattern := by
  obtain ⟨row, hrow, _, hopc, _⟩ := encode_matches_row i
  rw [encode_of_decode h] at hopc
  exact ⟨row, hrow, hopc.symm⟩

theorem exists_row_admits_of_decode {w : OpWord} {i : Instr} (h : decode w = .ok i) :
    ∃ row ∈ opcodeTable, row.admits w = true := by
  obtain ⟨row, hrow, hopc⟩ := exists_row_opcode_of_decode h
  obtain ⟨j, _, hd⟩ := decode_of_row hrow hopc
  refine ⟨row, hrow, (admits_iff_of_mem hrow w).mpr ⟨hopc, ?_⟩⟩
  by_contra hr
  cases (h.symm.trans hd).trans (if_neg hr)

/-- All rows that a word belongs to have its opcode, and no opcode stands in two rows. -/
theorem admitting_rows_length_le_one (w : OpWord) : (opcodeTable.filter fun row => row.admits w).length ≤ 1 := by
  have hsame : (opcodeTable.filter fun row => row.admits w).map (fun row => opcodeOf row.pattern) =
      List.replicate (opcodeTable.filter fun row => row.admits w).length (opcodeOf w) := by
    rw [List.map_eq_replicate_iff]
    intro row h
    obtain ⟨hrow, hw⟩ := List.mem_filter.mp h
    obtain ⟨hopc, _⟩ := (admits_iff_of_mem hrow w).mp hw
    exact hopc.symm
  rw [← List.nodup_replicate (a := opcodeOf w), ← hsame]
  exact opcodes_nodup.sublist (List.filter_sublist.map _)

/-- Settles O3, from the decoder's map row by row. -/
theorem legalWordMatchesExactlyOneRow : Obligations.LegalWordMatchesExactlyOneRow := by
  intro w
  refine ⟨⟨fun ⟨_, h⟩ => exists_row_admits_of_decode h, fun ⟨row, hrow, hw⟩ => ?_⟩, admitting_rows_length_le_one w,
    fun i row hi hrow hw => ?_⟩
  · obtain ⟨i, _, hi⟩ := decode_of_admits hrow hw
    exact ⟨i, hi⟩
  · obtain ⟨j, hname, hj⟩ := decode_of_admits hrow hw
    cases hi.symm.trans hj
    exact hname.symm

end Sys2Proof

/-! # Words and operations at the port (30_encoding.md R48 to R53, 60_exceptions.md R181) -/

namespace Sys2Proof.Machine

/-! ## Illegal words -/

theorem step_of_decode_error {s : State} {w : OpWord} {rest : List OpWord} {e : Illegal} (hport : s.port = w :: rest)
    (hd : decode w = .error e) : ∃ t, step s = .next t ∧ Raises t .illegalOperation ∧ t.port = rest ∧
      KeepsFrame [] s t ∧ KeepsStaging s t ∧ KeepsTracker s t := by
  obtain ⟨hframe, hstaging, htracker, _⟩ := keepsAll_raise { s with port := rest } .illegalOperation
  exact ⟨_, (step_cons hport).trans (performWord_error hd _), rfl, rfl, hframe, hstaging, htracker⟩

/-- R51's list, opcode by opcode against the table. -/
theorem reserved_opcode_iff : ∀ opc : Byte,
    (opc.toNat = 0 ∨ (0x08 ≤ opc.toNat ∧ opc.toNat ≤ 0x0F) ∨ (0x19 ≤ opc.toNat ∧ opc.toNat ≤ 0x1F) ∨
        (0x21 ≤ opc.toNat ∧ opc.toNat ≤ 0x2F) ∨ (0x31 ≤ opc.toNat ∧ opc.toNat ≤ 0x3F) ∨ 0x49 ≤ opc.toNat) ↔
      ∀ row ∈ opcodeTable, opcodeOf row.pattern ≠ opc := by decide

theorem decode_eq_error_of_no_row {opc : Byte} (h : ∀ row ∈ opcodeTable, opcodeOf row.pattern ≠ opc) (p : Operand) :
    ∃ e, decode (wordOf opc p) = .error e := by
  cases hd : decode (wordOf opc p) with
  | error e => exact ⟨e, rfl⟩
  | ok i =>
    obtain ⟨row, hrow, hopc⟩ := exists_row_opcode_of_decode hd
    rw [opcodeOf_wordOf] at hopc
    exact absurd hopc.symm (h row hrow)

/-- Settles O4: a legal word would have the opcode of a row. -/
theorem reservedOpcodeIsIllegal : Obligations.ReservedOpcodeIsIllegal := by
  refine fun opc => ⟨reserved_opcode_iff opc, fun hno s p rest hport => ?_⟩
  obtain ⟨e, hd⟩ := decode_eq_error_of_no_row hno p
  exact step_of_decode_error hport hd

/-- Settles O5: the bits that a row reserves are those that the decoder checks for its opcode. -/
theorem reservedBitIsIllegal : Obligations.ReservedBitIsIllegal := by
  intro s w rest row hrow hport hopc hr
  obtain ⟨i, _, hd⟩ := decode_of_row hrow hopc
  exact step_of_decode_error hport (hd.trans (if_neg hr))

/-! ## Operations with documented operands -/

theorem setChannel_of_documented {n : Byte} {s : State} (h : channelDocumented s.nch n = true) (v : Bool) :
    setChannel n v s = .next ((s.setCur (setLane s.cur n.toNat v)).respond .none) := by
  simp only [channelDocumented, Bool.and_eq_true, decide_eq_true_eq] at h
  rw [setChannel_eq, if_neg (by omega)]

/-- Only an operation on a field or on a channel can fail, apart from FLOAD, and a documented one does not. -/
theorem exec_answers_ok_of_documented {i : Instr} {s : State} (hd : i.documented s.nch = true) (hi : i ≠ .fload) :
    ∃ t r, exec i s = .next t ∧ t.resp = some (.ok r) := by
  cases i
  case fload => exact absurd rfl hi
  case fget f => exact ⟨_, _, execFget_of_lt (Nat.lt_succ_of_le (of_decide_eq_true hd)) s, rfl⟩
  case fset f v => exact ⟨_, _, execFset_of_lt (Nat.lt_succ_of_le (of_decide_eq_true hd)) v s, rfl⟩
  case tsetbit n v => exact ⟨_, _, setChannel_of_documented hd v, rfl⟩
  case tseton n => exact ⟨_, _, setChannel_of_documented hd true, rfl⟩
  case tsetoff n => exact ⟨_, _, setChannel_of_documented hd false, rfl⟩
  all_goals exact ⟨_, _, rfl, rfl⟩

/-- Settles O15: FLOAD by the two outcomes of R66, every other operation by its operands. -/
theorem documentedOperationSucceeds : Obligations.DocumentedOperationSucceeds := by
  intro i s hd
  by_cases hi : i = .fload
  · subst hi
    by_cases hlen : s.rxlen = 13
    · exact ⟨_, _, (execFload_eq s).trans (if_pos hlen), rfl, iff_of_true rfl fun _ => hlen⟩
    · exact ⟨_, _, (execFload_eq s).trans (if_neg hlen), rfl, iff_of_false (by decide) fun h => hlen (h rfl)⟩
  · obtain ⟨t, r, h, hresp⟩ := exec_answers_ok_of_documented hd hi
    exact ⟨t, _, h, hresp, iff_of_true rfl fun h => absurd h hi⟩

/-! ## The step -/

theorem step_of_decode_ok {s : State} {w : OpWord} {rest : List OpWord} {i : Instr} (hport : s.port = w :: rest)
    (hd : decode w = .ok i) : step s = exec i { s with port := rest } :=
  (step_cons hport).trans (performWord_ok hd _)

theorem decode_of_decodeTableWord {nbits w : Nat} {i : Instr} (h : decodeTableWord nbits w = some i) :
    decode (BitVec.ofNat 72 (w % 2 ^ nbits)) = .ok i := by
  unfold decodeTableWord at h
  split at h <;> cases h
  assumption

/-- Settles O8: with the table's word taken from the port, the state is the one before it was presented. -/
theorem stepRunsDecodedOperation : Obligations.StepRunsDecodedOperation :=
  ⟨fun _ _ _ _ => step_of_decode_ok,
    fun s _ _ h => step_of_decode_ok (s.presentFirst_port _) (decode_of_decodeTableWord h), fun _ => step_nil⟩

end Sys2Proof.Machine

/-! # Creation of a frame from a buffer (30_encoding.md R60, R61; 40_frame.md R66, R70)

From a cleared count, each RXPUT extends the staged bytes by one: the count saturates at 255, never again at 13, and of
the bytes only the first 13 are stored. So the final FLOAD sees a count of 13 exactly for a buffer of 13 bytes. -/

namespace Sys2Proof.Machine

/-- These bytes have been staged since the last clear: the count is their number as far as it goes, and `RXBUF` holds as
many of them as it has room for (R70). -/
def HasStaged (s : State) (bs : List Byte) : Prop :=
  s.rxlen.toNat = min bs.length 255 ∧ ∀ a, a < 13 → a < bs.length → s.memRead .rxbuf a = bs[a]?

theorem HasStaged.stage {s : State} {bs : List Byte} (h : HasStaged s bs) (b : Byte) :
    HasStaged (s.stage b) (bs ++ [b]) := by
  obtain ⟨hlen, hbytes⟩ := h
  simp only [HasStaged, List.length_append, List.length_singleton]
  refine ⟨?_, fun a ha13 ha => ?_⟩
  · rw [State.stage_rxlen, rxlenNext_toNat, hlen]
    omega
  · rw [memRead_stage]
    by_cases hlast : a = bs.length
    · rw [if_pos (by omega), hlast, List.getElem?_concat_length]
    · rw [if_neg (by omega), hbytes a ha13 (by omega), List.getElem?_append_left (by omega)]

theorem HasStaged.rxlen_eq_iff {s : State} {bs : List Byte} (h : HasStaged s bs) : s.rxlen = 13 ↔ bs.length = 13 := by
  obtain ⟨hlen, _⟩ := h
  rw [← BitVec.toNat_inj, hlen, show (13 : Byte).toNat = 13 from rfl]
  omega

theorem HasStaged.memRead_of_length_eq {s : State} {bs : List Byte} (h : HasStaged s bs) (hlen : bs.length = 13)
    (a : Nat) : s.memRead .rxbuf a = bs[a]? := by
  obtain ⟨_, hbytes⟩ := h
  by_cases ha : a < 13
  · exact hbytes a ha (hlen ▸ ha)
  · rw [memRead_of_ge s .rxbuf (Nat.not_lt.mp ha), List.getElem?_eq_none (by omega)]

/-- `FR`, the tracker registers and NCH are as before; staging and clearing write none of them. -/
def SameFrameAndTracker (s t : State) : Prop := t.fr = s.fr ∧ t.cur = s.cur ∧ t.prv = s.prv ∧ t.nch = s.nch

theorem SameFrameAndTracker.trans {s t u : State} (h : SameFrameAndTracker s t) (h' : SameFrameAndTracker t u) :
    SameFrameAndTracker s u := by
  obtain ⟨hfr, hcur, hprv, hnch⟩ := h
  obtain ⟨hfr', hcur', hprv', hnch'⟩ := h'
  exact ⟨hfr'.trans hfr, hcur'.trans hcur, hprv'.trans hprv, hnch'.trans hnch⟩

theorem SameFrameAndTracker.keepsTracker {s t : State} (h : SameFrameAndTracker s t) : KeepsTracker s t := by
  obtain ⟨_, hcur, hprv, hnch⟩ := h
  exact ⟨hcur, hprv, hnch, changed_congr hcur hprv hnch⟩

theorem SameFrameAndTracker.keepsFrame {s t : State} (h : SameFrameAndTracker s t) : KeepsFrame [] s t := by
  obtain ⟨hfr, _, _, _⟩ := h
  exact fun a _ => memRead_congr (sp := .fr) hfr a

theorem sameFrameAndTracker_stage (s : State) (b : Byte) : SameFrameAndTracker s (s.stage b) :=
  ⟨s.stage_fr b, s.stage_cur b, s.stage_prv b, s.stage_nch b⟩

/-! ## The run of FNEW -/

theorem runOps_rxclr (is : List Instr) (s : State) :
    ∃ t, runOps s (.rxclr :: is) = runOps t is ∧ HasStaged t [] ∧ SameFrameAndTracker s t :=
  ⟨_, runOps_cons (decode_encode .rxclr) rfl, ⟨rfl, fun a _ ha => absurd ha a.not_lt_zero⟩, rfl, rfl, rfl, rfl⟩

theorem runOps_rxput (b : Byte) (is : List Instr) {s : State} {bs : List Byte} (h : HasStaged s bs) :
    ∃ t, runOps s (.rxput b :: is) = runOps t is ∧ HasStaged t (bs ++ [b]) ∧ SameFrameAndTracker s t :=
  ⟨_, runOps_cons (decode_encode (.rxput b)) rfl, HasStaged.stage (s := { s with port := wordsOf is }) h b,
    sameFrameAndTracker_stage { s with port := wordsOf is } b⟩

/-- By induction on the bytes that are still to be staged. -/
theorem runOps_map_rxput (bs : List Byte) (is : List Instr) {s : State} {staged : List Byte} (h : HasStaged s staged) :
    ∃ t, runOps s (bs.map .rxput ++ is) = runOps t is ∧ HasStaged t (staged ++ bs) ∧ SameFrameAndTracker s t := by
  induction bs generalizing s staged with
  | nil => exact ⟨s, rfl, by rwa [List.append_nil], rfl, rfl, rfl, rfl⟩
  | cons b bs ih =>
    obtain ⟨u, hput, hu, hsame⟩ := runOps_rxput b (bs.map .rxput ++ is) h
    obtain ⟨t, hrun, ht, hsame'⟩ := ih hu
    rw [List.append_assoc] at ht
    exact ⟨t, hput.trans hrun, ht, hsame.trans hsame'⟩

/-- The last operation of a run, at the state with no word left. -/
theorem runOps_singleton {i : Instr} {s t : State} (h : exec i { s with port := [] } = .next t) :
    runOps s [i] = .next t := by
  obtain ⟨t', _, h', _, hport, _⟩ := exec_answers i { s with port := [] }
  cases h'.symm.trans h
  rw [runOps_cons (decode_encode i) h, runOps_nil t hport]

/-- Settles O26, by the two outcomes of the final FLOAD. -/
theorem bufferLoadsExactlyWhenThirteenBytes : Obligations.BufferLoadsExactlyWhenThirteenBytes := by
  intro s bs
  obtain ⟨u, hclr, hu, hsame⟩ := runOps_rxclr (bs.map .rxput ++ [.fload]) s
  obtain ⟨v, hput, hstaged, hsame'⟩ := runOps_map_rxput bs [.fload] hu
  have hrun : runOps s (fnew bs) = runOps v [.fload] := hclr.trans hput
  have hsv : SameFrameAndTracker s v := hsame.trans hsame'
  by_cases hlen : bs.length = 13
  · have hload := (execFload_eq { v with port := [] }).trans (if_pos (hstaged.rxlen_eq_iff.mpr hlen))
    exact ⟨_, hrun.trans (runOps_singleton hload), rfl, hsv.keepsTracker,
      fun _ => ⟨rfl, hstaged.memRead_of_length_eq hlen⟩, fun hne => absurd hlen hne⟩
  · have hload := (execFload_eq { v with port := [] }).trans (if_neg (mt hstaged.rxlen_eq_iff.mp hlen))
    exact ⟨_, hrun.trans (runOps_singleton hload), rfl, hsv.keepsTracker,
      fun h => absurd h hlen, fun _ => ⟨rfl, hsv.keepsFrame⟩⟩

end Sys2Proof.Machine

/-! # The assembler (30_encoding.md R57 to R62) -/

namespace Sys2Proof.Machine

/-! ## Worked encodings -/

theorem workedEncoding_of_encode {text : String} {i : Instr} {w : OpWord} (htext : assembleText text = some [i])
    (hw : encode i = w) : WorkedEncoding text i w :=
  ⟨htext, hw, hw ▸ decode_encode i⟩

/-- Settles O6: text and word by evaluation, the decoding by the round trip. -/
theorem workedEncodingsAgree : Obligations.WorkedEncodingsAgree := by
  refine ⟨?_, ?_, ?_, ?_, ?_, ?_, ?_, ?_, ?_, ?_⟩ <;> exact workedEncoding_of_encode (by decide) (by decide)

/-! ## Field names and pseudo-operations -/

theorem nameCode_of_not_mem {name : String} {names : List String} (h : name ∉ names) (n : Nat) :
    nameCode name names n = 0xFF := by
  induction names generalizing n with
  | nil => rfl
  | cons x xs ih =>
    rw [List.mem_cons, not_or] at h
    obtain ⟨hx, hxs⟩ := h
    rw [nameCode, if_neg (Ne.symm hx), ih hxs]

theorem numArg_num_toNat {width : Nat} (b : BitVec width) : numArg width (.num b.toNat) = some b := by
  rw [numArg, if_pos b.isLt, BitVec.ofNat_toNat, BitVec.setWidth_eq]

theorem byteArgs_map_num (bs : List Byte) : byteArgs (bs.map fun b => .num b.toNat) = some bs := by
  induction bs with
  | nil => rfl
  | cons b bs ih => rw [List.map_cons, byteArgs, numArg_num_toNat, ih]; rfl

theorem assemble_fnew (bs : List Byte) : assemble "FNEW" (bs.map fun b => .num b.toNat) = some (fnew bs) :=
  congrArg (Option.map fnew) (byteArgs_map_num bs)

/-- The two lines differ in how they end: the shorter one maps where the longer one binds its third operand, 8. -/
theorem assemble_setcmd_default (code r : AsmOperand) :
    assemble "SETCMD" [code, r] = assemble "SETCMD" [code, r, .num 8] :=
  congrArg (numArg 8 code).bind (funext fun _ => Option.map_eq_bind)

theorem exec_fget_0xFF (s : State) :
    ∃ t, exec (.fget 0xFF) s = .next t ∧ Raises t .unknownField ∧ KeepsAll s t :=
  ⟨_, execFget_of_ge (f := 0xFF) (by decide) s, rfl, keepsAll_raise s _⟩

/-- Settles O7: the names by look-up, an unknown name by the error for 0xFF, FNEW by induction on its bytes. -/
theorem assemblerNamesAndPseudoOperations : Obligations.AssemblerNamesAndPseudoOperations := by
  refine ⟨by decide, fun name => ⟨rfl, fun hno => ?_⟩, assemble_setcmd_default, rfl, fun _ => rfl, assemble_fnew⟩
  have hcode : fieldCode name = 0xFF := nameCode_of_not_mem hno 0
  rw [hcode]
  exact ⟨rfl, exec_fget_0xFF⟩

end Sys2Proof.Machine

/-! # The frame unit (40_frame.md R65 to R73)

What FGET answers is said through the byte that the space `FR` reads at the field's address, so get after set is the frame
of FSET read back. The 13 bytes that FREAD answers after a load are those that `HasStaged` follows through the RXPUTs. -/

namespace Sys2Proof.Machine

/-! ## What a next state keeps, from its fields -/

theorem keepsFrame_of_fr_eq {s t : State} (hfr : t.fr = s.fr) : KeepsFrame [] s t :=
  fun a _ => memRead_congr (sp := .fr) hfr a

theorem keepsStaged_of_rxbuf_eq {s t : State} (hrxbuf : t.rxbuf = s.rxbuf) : KeepsStaged s t :=
  fun a => memRead_congr (sp := .rxbuf) hrxbuf a

theorem keepsTracker_of_fields {s t : State} (hcur : t.cur = s.cur) (hprv : t.prv = s.prv) (hnch : t.nch = s.nch) :
    KeepsTracker s t :=
  ⟨hcur, hprv, hnch, changed_congr hcur hprv hnch⟩

theorem keepsFrame_writeFr (s : State) (i : Fin 13) (v : Byte) : KeepsFrame [i.val] s (s.writeFr i v) := by
  intro a ha
  rw [List.mem_singleton] at ha
  rw [memRead_writeFr, if_neg (Ne.symm ha)]

/-! ## FCLR and FLOAD -/

theorem memRead_loadFrame_zeroFrame (s : State) {a : Nat} (ha : a < 13) :
    (s.loadFrame zeroFrame).memRead .fr a = some 0 := by
  rw [memRead_of_lt _ _ ha, space_fr, State.loadFrame_fr, zeroFrame, Vector.getElem_replicate]

/-- Settles O19: FCLR writes the frame registers alone. -/
theorem fclrZeroesFrame : Obligations.FclrZeroesFrame := by
  intro s
  exact ⟨_, rfl, rfl, fun a ha => memRead_loadFrame_zeroFrame s (Nat.lt_succ_of_le ha),
    keeps_others_of_fields rfl rfl rfl rfl rfl rfl⟩

theorem rxlen_eq_thirteen_iff (s : State) : s.rxlen = 13 ↔ s.rxlen.toNat = 13 :=
  BitVec.toNat_inj.symm

/-- FLOAD with 13 bytes staged (R66). -/
theorem exec_fload_of_eq {s : State} (hlen : s.rxlen.toNat = 13) :
    exec .fload s = .next (((s.loadFrame s.rxbuf).setRxlen 0).respond .none) :=
  (execFload_eq s).trans (if_pos ((rxlen_eq_thirteen_iff s).mpr hlen))

/-- FLOAD with any other count (R66). -/
theorem exec_fload_of_ne {s : State} (hlen : s.rxlen.toNat ≠ 13) :
    exec .fload s = .next ((s.setRxlen 0).raise .invalidFrameLength) :=
  (execFload_eq s).trans (if_neg (mt (rxlen_eq_thirteen_iff s).mp hlen))

/-- Settles O20: one case for each outcome; after a load the space `FR` is the space `RXBUF`. -/
theorem floadLoadsExactlyThirteen : Obligations.FloadLoadsExactlyThirteen := by
  intro s
  constructor
  · intro hlen
    exact ⟨_, exec_fload_of_eq hlen, rfl, rfl, fun _ => rfl, keepsStaged_of_rxbuf_eq rfl,
      keepsTracker_of_fields rfl rfl rfl, rfl, rfl⟩
  · intro hlen
    exact ⟨_, exec_fload_of_ne hlen, rfl, rfl, keepsFrame_of_fr_eq rfl, keepsStaged_of_rxbuf_eq rfl,
      keepsTracker_of_fields rfl rfl rfl, rfl, rfl⟩

/-! ## FGET, FSET and FREAD -/

/-- FGET answers the byte that the space `FR` has at the field's address (R67). -/
theorem exec_fget_of_memRead {s : State} {f b : Byte} (hb : s.memRead .fr f.toNat = some b) :
    ∃ t, exec (.fget f) s = .next t ∧ Answers t (.byte b) ∧ KeepsAll s t := by
  by_cases hf : f.toNat < 13
  · have hread : s.readFr ⟨f.toNat, hf⟩ = b := Option.some.inj ((memRead_fr s ⟨f.toNat, hf⟩).symm.trans hb)
    subst hread
    exact ⟨_, execFget_of_lt hf s, rfl, keepsAll_respond s _⟩
  · rw [memRead_of_ge s .fr (Nat.not_lt.mp hf)] at hb
    cases hb

/-- Settles O21: a field 0..12 has a byte, a field above has none. -/
theorem fgetReadsField : Obligations.FgetReadsField := by
  intro s f
  constructor
  · intro hf
    have hb := memRead_of_lt s .fr (Nat.lt_succ_of_le hf)
    obtain ⟨t, hget, hans, hkeep⟩ := exec_fget_of_memRead hb
    exact ⟨t, _, hget, hb, hans, hkeep⟩
  · intro hf
    exact ⟨_, execFget_of_ge hf s, rfl, keepsAll_raise s _⟩

/-- FSET of a field 0..12 writes that byte and nothing else (R68). -/
theorem exec_fset_of_le (s : State) {f : Byte} (v : Byte) (hf : f.toNat ≤ 12) :
    ∃ t, exec (.fset f v) s = .next t ∧ Answers t .none ∧ t.memRead .fr f.toNat = some v ∧
      KeepsFrame [f.toNat] s t ∧ KeepsStaging s t ∧ KeepsTracker s t ∧ KeepsPort s t := by
  have hlt : f.toNat < 13 := Nat.lt_succ_of_le hf
  refine ⟨_, execFset_of_lt hlt v s, rfl, ?_, keepsFrame_writeFr s ⟨f.toNat, hlt⟩ v,
    keeps_others_of_fields rfl rfl rfl rfl rfl rfl⟩
  rw [memRead_respond, memRead_writeFr, if_pos rfl]

/-- Settles O22: the write of one register below 13, and the error that keeps everything above. -/
theorem fsetWritesField : Obligations.FsetWritesField := by
  intro s f v
  exact ⟨exec_fset_of_le s v, fun hf => ⟨_, execFset_of_ge hf v s, rfl, keepsAll_raise s _⟩⟩

/-- A register number as a field operand. -/
theorem toNat_ofNat_fin (i : Fin 13) : (BitVec.ofNat 8 i.val).toNat = i.val :=
  Nat.mod_eq_of_lt (i.isLt.trans (by decide))

/-- Settles O23: FSET leaves `v` at its own address and the old byte at every other, and FGET answers what stands there. -/
theorem freadAndGetAfterSet : Obligations.FreadAndGetAfterSet := by
  constructor
  · intro s
    refine ⟨_, s.fr, rfl, rfl, keepsAll_respond s _, memRead_fr s, fun i => ?_⟩
    obtain ⟨u, hget, hans, _⟩ := exec_fget_of_memRead (f := BitVec.ofNat 8 i.val) (b := s.readFr i)
      (by rw [toNat_ofNat_fin, memRead_fr])
    exact ⟨u, hget, hans⟩
  · intro s f v hf
    obtain ⟨t, hset, _, hnew, hframe, _⟩ := exec_fset_of_le s v hf
    refine ⟨t, hset, ?_, fun g hg hgf => ?_⟩
    · obtain ⟨u, hget, hans, _⟩ := exec_fget_of_memRead hnew
      exact ⟨u, hget, hans⟩
    · have hold := memRead_of_lt s .fr (Nat.lt_succ_of_le hg)
      have hsame : t.memRead .fr g.toNat = s.memRead .fr g.toNat :=
        hframe g.toNat (by rw [List.mem_singleton]; exact mt BitVec.eq_of_toNat_eq hgf)
      obtain ⟨u, hget, hans, _⟩ := exec_fget_of_memRead hold
      obtain ⟨u', hget', hans', _⟩ := exec_fget_of_memRead (hsame.trans hold)
      exact ⟨_, u, u', hget, hans, hget', hans'⟩

/-! ## RXPUT and RXCLR -/

theorem memRead_stage_at_rxlen {s : State} (b : Byte) (hlen : s.rxlen.toNat < 13) :
    (s.stage b).memRead .rxbuf s.rxlen.toNat = some b := by
  rw [memRead_stage, if_pos ⟨rfl, hlen⟩]

theorem memRead_stage_of_ne {s : State} (b : Byte) {a : Nat} (ha : a ≠ s.rxlen.toNat) :
    (s.stage b).memRead .rxbuf a = s.memRead .rxbuf a := by
  rw [memRead_stage, if_neg (fun h => ha h.left)]

/-- A byte beyond the 13th is dropped (R70). -/
theorem keepsStaged_stage {s : State} (b : Byte) (hlen : 13 ≤ s.rxlen.toNat) : KeepsStaged s (s.stage b) := by
  intro a
  rw [memRead_stage, if_neg (by omega)]

/-- Settles O24: RXPUT is `State.stage`; after RXCLR the count is 0, which is not 13. -/
theorem stagingStoresCountsAndClears : Obligations.StagingStoresCountsAndClears := by
  constructor
  · intro s b
    refine ⟨(s.stage b).respond .none, rfl, rfl, memRead_stage_at_rxlen b, fun a => memRead_stage_of_ne b,
      keepsStaged_stage b, ?_, (sameFrameAndTracker_stage s b).keepsFrame, (sameFrameAndTracker_stage s b).keepsTracker,
      s.stage_port b, s.stage_nch b⟩
    rw [State.respond_rxlen, State.stage_rxlen, rxlenNext_toNat]
  · intro s
    have hzero : ((s.setRxlen 0).respond .none).rxlen.toNat ≠ 13 := by
      rw [State.respond_rxlen, State.setRxlen_rxlen]
      decide
    exact ⟨(s.setRxlen 0).respond .none, rfl, rfl, rfl, keepsStaged_of_rxbuf_eq rfl, keepsFrame_of_fr_eq rfl,
      keepsTracker_of_fields rfl rfl rfl, ⟨rfl, rfl⟩, _, exec_fload_of_ne hzero, rfl⟩

/-! ## Thirteen bytes staged, loaded and read -/

theorem hasStaged_nil_of_rxlen_eq_zero {s : State} (hlen : s.rxlen = 0) : HasStaged s [] :=
  ⟨congrArg BitVec.toNat hlen, fun a _ ha => absurd ha a.not_lt_zero⟩

/-- With 13 bytes staged, the staging buffer is those bytes in order. -/
theorem HasStaged.rxbuf_toList {s : State} {bs : List Byte} (h : HasStaged s bs) (hlen : bs.length = 13) :
    s.rxbuf.toList = bs := by
  refine List.ext_getElem (s.rxbuf.length_toList.trans hlen.symm) fun a ha hb => ?_
  have hbyte := h.memRead_of_length_eq hlen a
  rw [memRead_of_lt s .rxbuf (hlen ▸ hb), List.getElem?_eq_getElem hb] at hbyte
  exact (Vector.getElem_toList ha).trans (Option.some.inj hbyte)

/-- FLOAD as an operation of a run: it moves the staging buffer to the frame when 13 bytes are staged. -/
theorem runOps_fload (is : List Instr) {s : State} (hlen : s.rxlen = 13) :
    ∃ t, runOps s (.fload :: is) = runOps t is ∧ t.fr = s.rxbuf :=
  ⟨_, runOps_cons (decode_encode .fload) ((execFload_eq _).trans (if_pos hlen)), rfl⟩

/-- Settles O25: the RXPUTs by the induction of `runOps_map_rxput`, then the load and the read. -/
theorem thirteenStagedBytesReadBack : Obligations.ThirteenStagedBytesReadBack := by
  intro s bs hzero hlen
  obtain ⟨u, hput, hu, _⟩ := runOps_map_rxput bs [.fload, .fread] (hasStaged_nil_of_rxlen_eq_zero hzero)
  obtain ⟨v, hload, hv⟩ := runOps_fload [.fread] (hu.rxlen_eq_iff.mpr hlen)
  exact ⟨_, v.fr, hput.trans (hload.trans (runOps_singleton rfl)), rfl, hv ▸ hu.rxbuf_toList hlen⟩

end Sys2Proof.Machine

/-! # The HASH unit (41_hash.md R80 to R82)

The algorithm and the wiring are both read bit by bit, in terms of the folded half `hashFold`: bits 15:10 are its bits
12:7, bits 9:7 are the constant `110`, and bits 6:0 are its bits 6:0. That table determines all 16 bits, so the equality of
the two, and an identifier for every value with the fixed bits, follow from its uniqueness. -/

namespace Sys2Proof.Machine

/-! ## The folded half (R80 steps 1 to 3) -/

theorem hashFold_eq_div_mod (id : Operand) :
    hashFold id = (id.toNat % 2 ^ 32 / 2 ^ 16) ^^^ (id.toNat % 2 ^ 32 % 2 ^ 16) := by
  have hlow32 : id.toNat &&& 0xFFFFFFFF = id.toNat % 2 ^ 32 := Nat.and_two_pow_sub_one_eq_mod id.toNat 32
  have hlow16 (v : Nat) : v &&& 0xFFFF = v % 2 ^ 16 := Nat.and_two_pow_sub_one_eq_mod v 16
  rw [hashFold, hlow32, hlow16, Nat.shiftRight_eq_div_pow]

theorem testBit_hashFold (id : Operand) {i : Nat} (hi : i < 16) :
    (hashFold id).testBit i = (id.getLsbD (16 + i) ^^ id.getLsbD i) := by
  rw [hashFold_eq, BitVec.testBit_toNat, BitVec.getLsbD_xor, BitVec.getLsbD_extractLsb', BitVec.getLsbD_extractLsb',
    decide_eq_true hi, Bool.true_and, Bool.true_and, Nat.zero_add]

/-! ## The hash as a number -/

/-- No narrowing takes place: every part of the result has 16 bits. -/
theorem addressHash_toNat (id : Operand) :
    (addressHash id).toNat = (((hashFold id * 8) &&& 0xFF00) ||| 0x0300) ||| (hashFold id % 128) := by
  have hshift : hashFold id <<< 3 = hashFold id * 8 := Nat.shiftLeft_eq _ 3
  have hlow7 : hashFold id &&& 0x7F = hashFold id % 128 := Nat.and_two_pow_sub_one_eq_mod _ 7
  rw [addressHash, BitVec.toNat_ofNat, hshift, hlow7]
  refine Nat.mod_eq_of_lt (Nat.or_lt_two_pow (Nat.or_lt_two_pow ?_ (by decide)) (by omega))
  exact Nat.and_le_right.trans_lt (by decide)

/-- Settles O36: the algorithm on the number of the folded half, with the frame of an answer. -/
theorem hashFollowsAlgorithm : Obligations.HashFollowsAlgorithm := by
  intro s id
  refine ⟨_, addressHash id, rfl, rfl, keepsAll_respond s _, ?_⟩
  rw [addressHash_toNat, hashFold_eq_div_mod]

/-! ## The hash bit by bit -/

/-- `y` is the 16 bits `x[12:7]`, `110`, `x[6:0]` (R81). -/
structure HasHashBits (x : Nat) (y : Half) : Prop where
  high : ∀ j, j < 6 → y.getLsbD (10 + j) = x.testBit (7 + j)
  bit9 : y.getLsbD 9 = true
  bit8 : y.getLsbD 8 = true
  bit7 : y.getLsbD 7 = false
  low : ∀ j, j < 7 → y.getLsbD j = x.testBit j

/-- The table covers all 16 bits. -/
theorem HasHashBits.unique {x : Nat} {y z : Half} (hy : HasHashBits x y) (hz : HasHashBits x z) : y = z := by
  refine BitVec.eq_of_getLsbD_eq fun i hi => ?_
  have hranges : (10 ≤ i ∧ i - 10 < 6) ∨ i = 9 ∨ i = 8 ∨ i = 7 ∨ i < 7 := by omega
  obtain ⟨h10, hj⟩ | rfl | rfl | rfl | hlow := hranges
  · rw [← Nat.add_sub_cancel' h10, hy.high _ hj, hz.high _ hj]
  · rw [hy.bit9, hz.bit9]
  · rw [hy.bit8, hz.bit8]
  · rw [hy.bit7, hz.bit7]
  · rw [hy.low i hlow, hz.low i hlow]

/-- The masks of R80 as ranges of bits. -/
theorem testBit_hashMasks : ∀ i < 16, Nat.testBit 0xFF00 i = decide (8 ≤ i) ∧
    Nat.testBit 0x0300 i = decide (8 ≤ i ∧ i < 10) ∧ Nat.testBit 0x7F i = decide (i < 7) := by decide

theorem getLsbD_addressHash (id : Operand) {i : Nat} (hi : i < 16) : (addressHash id).getLsbD i =
    (3 ≤ i && (hashFold id).testBit (i - 3) && 8 ≤ i || (8 ≤ i ∧ i < 10) || (hashFold id).testBit i && i < 7) := by
  obtain ⟨hhigh, hfixed, hlow⟩ := testBit_hashMasks i hi
  simp only [addressHash, BitVec.getLsbD_ofNat, Nat.testBit_or, Nat.testBit_and, Nat.testBit_shiftLeft, hhigh, hfixed,
    hlow, hi, decide_true, Bool.true_and]

theorem addressHash_hasHashBits (id : Operand) : HasHashBits (hashFold id) (addressHash id) where
  high j hj := by
    have hshift : 10 + j - 3 = 7 + j := by omega
    have hge3 : 3 ≤ 10 + j := by omega
    have hge8 : 8 ≤ 10 + j := by omega
    have hnlt7 : ¬ 10 + j < 7 := by omega
    rw [getLsbD_addressHash id (by omega), hshift]
    simp [hge3, hge8, hnlt7]
  bit9 := by rw [getLsbD_addressHash id (by decide)]; simp
  bit8 := by rw [getLsbD_addressHash id (by decide)]; simp
  bit7 := by rw [getLsbD_addressHash id (by decide)]; simp
  low j hj := by
    have hnge8 : ¬ 8 ≤ j := by omega
    rw [getLsbD_addressHash id (by omega)]
    simp [hj, hnge8]

theorem addressHashWires_hasHashBits (id : Operand) : HasHashBits (hashFold id) (addressHashWires id) where
  high j hj := by
    have hsub : 10 + j - 7 - 1 - 2 = j := by omega
    rw [addressHashWires, BitVec.getLsbD_append, if_neg (by omega), BitVec.getLsbD_append, if_neg (by omega),
      BitVec.getLsbD_append, if_neg (by omega), hsub, BitVec.getLsbD_extractLsb', decide_eq_true hj, Bool.true_and,
      hashFold_eq, BitVec.testBit_toNat]
  bit9 := by simp only [addressHashWires, BitVec.getLsbD_append]; rfl
  bit8 := by simp only [addressHashWires, BitVec.getLsbD_append]; rfl
  bit7 := by simp only [addressHashWires, BitVec.getLsbD_append]; rfl
  low j hj := by
    rw [addressHashWires, BitVec.getLsbD_append, if_pos hj, BitVec.getLsbD_extractLsb', decide_eq_true hj, Bool.true_and,
      Nat.zero_add, hashFold_eq, BitVec.testBit_toNat]

/-- Settles O37: both sides have the bits of R81 for the same folded half. -/
theorem hashEqualsWiring : Obligations.HashEqualsWiring := by
  intro id
  have hbits := addressHash_hasHashBits id
  refine ⟨hbits.unique (addressHashWires_hasHashBits id), ?_⟩
  rw [hashFold_eq] at hbits
  exact ⟨hbits.high, hbits.bit9, hbits.bit8, hbits.bit7, hbits.low⟩

/-! ## The values that are a hash (R82) -/

theorem and_eq_self_iff_getLsbD {y m : Half} :
    y &&& m = m ↔ ∀ i < 16, m.getLsbD i = true → y.getLsbD i = true := by
  rw [BitVec.eq_of_getLsbD_eq_iff]
  refine forall₂_congr fun i _ => ?_
  cases hm : m.getLsbD i <;> simp [hm]

theorem and_eq_zero_iff_getLsbD {y m : Half} :
    y &&& m = 0 ↔ ∀ i < 16, m.getLsbD i = true → y.getLsbD i = false := by
  rw [BitVec.eq_of_getLsbD_eq_iff]
  refine forall₂_congr fun i _ => ?_
  cases hm : m.getLsbD i <;> simp [hm]

/-- The masks of R82 name bits 9, 8 and 7. -/
theorem fixedPattern_iff (y : Half) : (y &&& 0x0300 = 0x0300 ∧ y &&& 0x0080 = 0) ↔
    y.getLsbD 9 = true ∧ y.getLsbD 8 = true ∧ y.getLsbD 7 = false := by
  have hset : ∀ i < 16, (0x0300 : Half).getLsbD i = true → i = 9 ∨ i = 8 := by decide
  have hclear : ∀ i < 16, (0x0080 : Half).getLsbD i = true → i = 7 := by decide
  rw [and_eq_self_iff_getLsbD, and_eq_zero_iff_getLsbD]
  constructor
  · rintro ⟨hone, hzero⟩
    exact ⟨hone 9 (by decide) rfl, hone 8 (by decide) rfl, hzero 7 (by decide) rfl⟩
  · rintro ⟨h9, h8, h7⟩
    refine ⟨fun i hi hm => ?_, fun i hi hm => ?_⟩
    · obtain rfl | rfl := hset i hi hm
      · exact h9
      · exact h8
    · exact hclear i hi hm ▸ h7

/-- An identifier with hash `y`: the free bits of `y` at their places in the folded half, and 0 elsewhere. -/
def hashPreimage (y : Half) : Operand := (y.extractLsb' 10 6 ++ y.extractLsb' 0 7).setWidth 64

theorem testBit_hashFold_hashPreimage (y : Half) {i : Nat} (hi : i < 16) :
    (hashFold (hashPreimage y)).testBit i = (y.extractLsb' 10 6 ++ y.extractLsb' 0 7).getLsbD i := by
  have hbit (k : Nat) (hk : k < 64) :
      (hashPreimage y).getLsbD k = (y.extractLsb' 10 6 ++ y.extractLsb' 0 7).getLsbD k := by
    rw [hashPreimage, BitVec.getLsbD_setWidth, decide_eq_true hk, Bool.true_and]
  rw [testBit_hashFold _ hi, hbit _ (by omega), hbit _ (by omega), BitVec.getLsbD_of_ge _ (16 + i) (by omega),
    Bool.false_xor]

theorem hasHashBits_hashPreimage {y : Half} (h9 : y.getLsbD 9 = true) (h8 : y.getLsbD 8 = true)
    (h7 : y.getLsbD 7 = false) : HasHashBits (hashFold (hashPreimage y)) y where
  high j hj := by
    rw [testBit_hashFold_hashPreimage y (by omega), BitVec.getLsbD_append, if_neg (by omega), Nat.add_sub_cancel_left,
      BitVec.getLsbD_extractLsb', decide_eq_true hj, Bool.true_and]
  bit9 := h9
  bit8 := h8
  bit7 := h7
  low j hj := by
    rw [testBit_hashFold_hashPreimage y (by omega), BitVec.getLsbD_append, if_pos hj, BitVec.getLsbD_extractLsb',
      decide_eq_true hj, Bool.true_and, Nat.zero_add]

/-- Settles O38: every hash has the fixed bits by its table, and `hashPreimage` answers every value that has them. -/
theorem hashResultsAreExactlyFixedPattern : Obligations.HashResultsAreExactlyFixedPattern := by
  intro y
  rw [fixedPattern_iff]
  constructor
  · rintro ⟨h9, h8, h7⟩
    exact ⟨hashPreimage y, (addressHash_hasHashBits _).unique (hasHashBits_hashPreimage h9 h8 h7)⟩
  · rintro ⟨id, rfl⟩
    have hbits := addressHash_hasHashBits id
    exact ⟨hbits.bit9, hbits.bit8, hbits.bit7⟩

end Sys2Proof.Machine

/-! # The BUILDER unit (42_builder.md R85 to R96)

Every writing operation of the unit is a list of bytes to distinct registers, `State.writeBytes`. What such a list leaves
in the frame and what it keeps is said once; the statement of an operation is that fact at the operation's own list. -/

namespace Sys2Proof.Machine

/-! ## Several register writes -/

/-- The writes `FR[i] <- v` in the order of the list. -/
def State.writeBytes (s : State) (ws : List (Fin 13 × Byte)) : State := ws.foldl (fun s w => s.writeFr w.1 w.2) s

theorem State.writeBytes_cons (s : State) (w : Fin 13 × Byte) (ws : List (Fin 13 × Byte)) :
    s.writeBytes (w :: ws) = (s.writeFr w.1 w.2).writeBytes ws := rfl

/-- A register that the list does not name is as before. -/
theorem readFr_writeBytes_of_not_mem (s : State) {ws : List (Fin 13 × Byte)} {i : Fin 13} (hi : i ∉ ws.map Prod.fst) :
    (s.writeBytes ws).readFr i = s.readFr i := by
  induction ws generalizing s with
  | nil => rfl
  | cons w ws ih =>
    rw [List.map_cons, List.mem_cons, not_or] at hi
    obtain ⟨hw, hws⟩ := hi
    rw [State.writeBytes_cons, ih _ hws, readFr_writeFr, if_neg (Ne.symm hw)]

/-- No later write of the list undoes an earlier one when the registers are distinct. -/
theorem readFr_writeBytes_of_mem (s : State) {ws : List (Fin 13 × Byte)} (hws : (ws.map Prod.fst).Nodup)
    {w : Fin 13 × Byte} (hw : w ∈ ws) : (s.writeBytes ws).readFr w.1 = w.2 := by
  induction ws generalizing s with
  | nil => cases hw
  | cons w' ws ih =>
    rw [List.map_cons, List.nodup_cons] at hws
    obtain ⟨hw', hws⟩ := hws
    rw [State.writeBytes_cons]
    rcases List.mem_cons.mp hw with rfl | hw
    · rw [readFr_writeBytes_of_not_mem _ hw', readFr_writeFr, if_pos rfl]
    · exact ih _ hws hw

theorem writeBytes_append (s : State) (ws ws' : List (Fin 13 × Byte)) :
    s.writeBytes (ws ++ ws') = (s.writeBytes ws).writeBytes ws' := List.foldl_append

/-- The frame after the list depends on the frame before it alone. -/
theorem fr_writeBytes_congr {s t : State} (h : t.fr = s.fr) (ws : List (Fin 13 × Byte)) :
    (t.writeBytes ws).fr = (s.writeBytes ws).fr := by
  induction ws generalizing s t with
  | nil => exact h
  | cons w ws ih => exact ih (by rw [State.writeFr_fr, State.writeFr_fr, h])

theorem keepsFrame_writeBytes (s : State) (ws : List (Fin 13 × Byte)) :
    KeepsFrame (ws.map fun w => w.1.val) s (s.writeBytes ws) := by
  induction ws generalizing s with
  | nil => exact KeepsFrame.refl [] s
  | cons w ws ih =>
    intro a ha
    rw [List.map_cons, List.mem_cons, not_or] at ha
    obtain ⟨hw, hws⟩ := ha
    exact (ih _ a hws).trans (keepsFrame_writeFr s w.1 w.2 a (mt List.mem_singleton.mp hw))

/-- The list writes the frame registers alone. -/
theorem writeBytes_eq_loadFrame (s : State) (ws : List (Fin 13 × Byte)) :
    s.writeBytes ws = s.loadFrame (s.writeBytes ws).fr := by
  induction ws generalizing s with
  | nil => rfl
  | cons w ws ih => exact ih (s.writeFr w.1 w.2)

theorem keeps_others_writeBytes (s : State) (ws : List (Fin 13 × Byte)) :
    KeepsStaging s (s.writeBytes ws) ∧ KeepsTracker s (s.writeBytes ws) ∧ KeepsPort s (s.writeBytes ws) := by
  rw [writeBytes_eq_loadFrame]
  exact keeps_others_of_fields rfl rfl rfl rfl rfl rfl

/-- The operation `i` at `s` answers OK with no result, writes these bytes of the frame and keeps everything else. -/
structure WritesBytes (i : Instr) (s t : State) (ws : List (Fin 13 × Byte)) : Prop where
  exec_eq : exec i s = .next t
  answers : Answers t .none
  reads : ws.Forall fun w => t.memRead .fr w.1.val = some w.2
  keeps : KeepsFrame (ws.map fun w => w.1.val) s t ∧ KeepsStaging s t ∧ KeepsTracker s t ∧ KeepsPort s t

theorem writesBytes_of_exec_eq {i : Instr} {s : State} {ws : List (Fin 13 × Byte)} (hws : (ws.map Prod.fst).Nodup)
    (h : exec i s = .next ((s.writeBytes ws).respond .none)) :
    WritesBytes i s ((s.writeBytes ws).respond .none) ws where
  exec_eq := h
  answers := rfl
  reads := List.forall_iff_forall_mem.mpr fun w hw => by
    rw [memRead_respond, memRead_fr, readFr_writeBytes_of_mem s hws hw]
  keeps := ⟨keepsFrame_writeBytes s ws, keeps_others_writeBytes s ws⟩

/-! ## The bytes that each operation writes -/

/-- The command byte of SETCMD, `(code + r) mod 256` (R87). -/
def commandByte (code : Byte) (r : Bool) : Byte := BitVec.ofNat 8 (code.toNat + bitValue r)

/-- SETCMD (R87). -/
def commandBytes (code : Byte) (r : Bool) (dlc : Byte) : List (Fin 13 × Byte) := [(1, commandByte code r), (4, dlc)]

/-- SETHASH (R89). -/
def hashBytes (h : Half) : List (Fin 13 × Byte) := [(2, hiByte h), (3, loByte h)]

/-- SETDEV (R90). -/
def deviceBytes (dev sub : Half) : List (Fin 13 × Byte) :=
  [(5, hiByte dev), (6, loByte dev), (7, hiByte sub), (8, loByte sub)]

/-- SETTRK (R91): `recent` before `state`. -/
def trackBytes (dev sub : Half) (state recent : Byte) : List (Fin 13 × Byte) :=
  deviceBytes dev sub ++ [(9, recent), (10, state)]

/-- TOGTRK and TOGTRKV (R92, R93): the old `d5`, then the new one. -/
def toggleBytes (old new : Byte) : List (Fin 13 × Byte) := [(9, old), (10, new)]

theorem exec_setcmd (code : Byte) (r : Bool) (dlc : Byte) (s : State) :
    exec (.setcmd code r dlc) s = .next ((s.writeBytes (commandBytes code r dlc)).respond .none) := rfl

theorem exec_sethash (h : Half) (s : State) :
    exec (.sethash h) s = .next ((s.writeBytes (hashBytes h)).respond .none) := rfl

theorem exec_setdev (dev sub : Half) (s : State) :
    exec (.setdev dev sub) s = .next ((s.writeBytes (deviceBytes dev sub)).respond .none) := rfl

theorem exec_settrk (dev sub : Half) (state recent : Byte) (s : State) :
    exec (.settrk dev sub state recent) s =
      .next ((s.writeBytes (trackBytes dev sub state recent)).respond .none) := rfl

/-- TOGTRK flips bit 0 of the old `d5` (R92). -/
theorem exec_togtrk (s : State) : exec .togtrk s =
    .next ((s.writeBytes (toggleBytes (s.readFr 10) (s.readFr 10 ^^^ 0x01))).respond .none) := rfl

theorem exec_togtrkv (new : Byte) (s : State) :
    exec (.togtrkv new) s = .next ((s.writeBytes (toggleBytes (s.readFr 10) new)).respond .none) := rfl

theorem setcmd_writesBytes (s : State) (code : Byte) (r : Bool) (dlc : Byte) :
    ∃ t, WritesBytes (.setcmd code r dlc) s t (commandBytes code r dlc) :=
  ⟨_, writesBytes_of_exec_eq (by decide : ([1, 4] : List (Fin 13)).Nodup) (exec_setcmd code r dlc s)⟩

theorem sethash_writesBytes (s : State) (h : Half) : ∃ t, WritesBytes (.sethash h) s t (hashBytes h) :=
  ⟨_, writesBytes_of_exec_eq (by decide : ([2, 3] : List (Fin 13)).Nodup) (exec_sethash h s)⟩

theorem setdev_writesBytes (s : State) (dev sub : Half) :
    ∃ t, WritesBytes (.setdev dev sub) s t (deviceBytes dev sub) :=
  ⟨_, writesBytes_of_exec_eq (by decide : ([5, 6, 7, 8] : List (Fin 13)).Nodup) (exec_setdev dev sub s)⟩

theorem settrk_writesBytes (s : State) (dev sub : Half) (state recent : Byte) :
    ∃ t, WritesBytes (.settrk dev sub state recent) s t (trackBytes dev sub state recent) :=
  ⟨_, writesBytes_of_exec_eq (by decide : ([5, 6, 7, 8, 9, 10] : List (Fin 13)).Nodup)
    (exec_settrk dev sub state recent s)⟩

theorem togtrk_writesBytes (s : State) :
    ∃ t, WritesBytes .togtrk s t (toggleBytes (s.readFr 10) (s.readFr 10 ^^^ 0x01)) :=
  ⟨_, writesBytes_of_exec_eq (by decide : ([9, 10] : List (Fin 13)).Nodup) (exec_togtrk s)⟩

theorem togtrkv_writesBytes (s : State) (new : Byte) :
    ∃ t, WritesBytes (.togtrkv new) s t (toggleBytes (s.readFr 10) new) :=
  ⟨_, writesBytes_of_exec_eq (by decide : ([9, 10] : List (Fin 13)).Nodup) (exec_togtrkv new s)⟩

/-! ## SETPRIO and SETDLC -/

theorem exec_setprio_eq_fset (s : State) (b : Byte) : exec (.setprio b) s = exec (.fset 0 b) s :=
  (execFset_of_lt (f := 0) (by decide) b s).symm

theorem exec_setdlc_eq_fset (s : State) (b : Byte) : exec (.setdlc b) s = exec (.fset 4 b) s :=
  (execFset_of_lt (f := 4) (by decide) b s).symm

/-- Settles O28: both are the FSET of their field, which `exec_fset_of_le` describes. -/
theorem setprioAndSetdlcWriteOneField : Obligations.SetprioAndSetdlcWriteOneField := by
  intro s b
  constructor
  · obtain ⟨t, hset, hrest⟩ := exec_fset_of_le s (f := 0) b (by decide)
    exact ⟨t, (exec_setprio_eq_fset s b).trans hset, hset, hrest⟩
  · obtain ⟨t, hset, hrest⟩ := exec_fset_of_le s (f := 4) b (by decide)
    exact ⟨t, (exec_setdlc_eq_fset s b).trans hset, hset, hrest⟩

/-! ## The command byte by parity (R87, R88) -/

theorem commandByte_toNat (code : Byte) (r : Bool) :
    (commandByte code r).toNat = (code.toNat + if r then 1 else 0) % 256 := BitVec.toNat_ofNat _ 8

theorem commandByte_true_toNat (code : Byte) : (commandByte code true).toNat = (code.toNat + 1) % 256 :=
  commandByte_toNat code true

theorem commandByte_false (code : Byte) : commandByte code false = code := BitVec.ofNat_toNat 8 code

theorem commandByte_true (code : Byte) : commandByte code true = code + 1 :=
  BitVec.eq_of_toNat_eq (commandByte_true_toNat code)

/-- The response flag of a command byte is its parity (R12). -/
theorem getLsbD_zero_eq_parity (b : Byte) : b.getLsbD 0 = decide (b.toNat % 2 = 1) := Nat.testBit_zero b.toNat

/-- The command code of a command byte is the even number at or next below it (R12). -/
theorem and_0xFE_toNat : ∀ b : Byte, (b &&& 0xFE).toNat = 2 * (b.toNat / 2) := by decide

theorem or_one_eq_add_one_of_even {code : Byte} (h : code.toNat % 2 = 0) : code ||| 1 = code + 1 := by
  have hbit : code &&& 1 = 0 := BitVec.eq_of_toNat_eq ((Nat.and_one_is_mod code.toNat).trans h)
  exact (BitVec.add_eq_or_of_and_eq_zero code 1 hbit).symm

/-- An even code takes `r` as its response flag and stays the command code (R88). -/
theorem commandByte_of_even {code : Byte} (h : code.toNat % 2 = 0) (r : Bool) :
    (commandByte code r).getLsbD 0 = r ∧ commandByte code r &&& 0xFE = code := by
  have hlt := code.isLt
  rw [getLsbD_zero_eq_parity, ← BitVec.toNat_inj, and_0xFE_toNat]
  cases r with
  | false =>
    rw [commandByte_false]
    exact ⟨decide_eq_false (by omega), by omega⟩
  | true =>
    rw [commandByte_true_toNat]
    exact ⟨decide_eq_true (by omega), by omega⟩

/-- An odd code with `r = 1` carries into the next command code, with response flag 0 (R88). -/
theorem commandByte_true_of_odd {code : Byte} (h : code.toNat % 2 = 1) :
    (commandByte code true).getLsbD 0 = false ∧ commandByte code true &&& 0xFE = (code &&& 0xFE) + 2 := by
  have htwo : (2 : Byte).toNat = 2 := rfl
  rw [getLsbD_zero_eq_parity, ← BitVec.toNat_inj, BitVec.toNat_add, and_0xFE_toNat, and_0xFE_toNat,
    commandByte_true_toNat, htwo]
  exact ⟨decide_eq_false (by omega), by omega⟩

/-- Settles O29: the bytes that SETCMD writes, the first of them as a number. -/
theorem setcmdWritesCommandAndLength : Obligations.SetcmdWritesCommandAndLength := by
  intro s code r dlc
  obtain ⟨t, hexec, hans, ⟨hcmd, hdlc⟩, hkeep⟩ := setcmd_writesBytes s code r dlc
  exact ⟨t, _, hexec, hans, hcmd, commandByte_toNat code r, hdlc, hkeep⟩

/-- Settles O30, by the parity of the code. -/
theorem setcmdResponseFlagByParity : Obligations.SetcmdResponseFlagByParity := by
  intro s code r dlc
  obtain ⟨t, hexec, hans, ⟨hcmd, _⟩, _⟩ := setcmd_writesBytes s code r dlc
  refine ⟨t, _, hexec, hans, hcmd, ?even, ?odd, ?oddResponse, ?wraps⟩
  case even =>
    intro heven
    obtain ⟨hflag, hcode⟩ := commandByte_of_even heven r
    refine ⟨hflag, hcode, ?_⟩
    rintro rfl
    rw [commandByte_true, or_one_eq_add_one_of_even heven]
  case odd =>
    rintro hodd rfl
    rw [commandByte_false, getLsbD_zero_eq_parity]
    exact ⟨rfl, decide_eq_true hodd⟩
  case oddResponse =>
    rintro hodd rfl
    exact commandByte_true_of_odd hodd
  case wraps =>
    rintro rfl rfl
    exact commandByte_true 0xFF

/-! ## Hash, device address and track state (R89 to R91) -/

theorem toNat_eq_hiByte_loByte (h : Half) : h.toNat = (hiByte h).toNat * 256 + (loByte h).toNat := by
  rw [← halfOf_toNat, halfOf_hiByte_loByte]

/-- Settles O31: each pair of bytes is the high and the low half of its operand. -/
theorem sethashAndSetdevWriteBigEndian : Obligations.SethashAndSetdevWriteBigEndian := by
  constructor
  · intro s h
    obtain ⟨t, hexec, hans, ⟨hhi, hlo⟩, hkeep⟩ := sethash_writesBytes s h
    exact ⟨t, _, _, hexec, hans, hhi, hlo, hiByte_toNat h, loByte_toNat h, hkeep⟩
  · intro s dev sub
    obtain ⟨t, hexec, hans, ⟨hd0, hd1, hd2, hd3⟩, hkeep⟩ := setdev_writesBytes s dev sub
    exact ⟨t, _, _, _, _, hexec, hans, hd0, hd1, hd2, hd3, toNat_eq_hiByte_loByte dev, toNat_eq_hiByte_loByte sub,
      hkeep⟩

/-- Settles O32: `recent` stands before `state` in the bytes that SETTRK writes. -/
theorem settrkWritesAddressAndStates : Obligations.SettrkWritesAddressAndStates := by
  intro s dev sub state recent
  obtain ⟨t, hexec, hans, ⟨hd0, hd1, hd2, hd3, hd4, hd5⟩, hkeep⟩ := settrk_writesBytes s dev sub state recent
  exact ⟨t, _, _, _, _, hexec, hans, hd0, hd1, hd2, hd3, toNat_eq_hiByte_loByte dev, toNat_eq_hiByte_loByte sub,
    hd4, hd5, hkeep⟩

/-! ## The toggles (R92, R93, R96) -/

/-- Settles O33: both toggles write the old `d5` before the new one. -/
theorem togglesShiftStateIntoRecent : Obligations.TogglesShiftStateIntoRecent := by
  intro s new
  constructor
  · obtain ⟨t, hexec, hans, ⟨hd4, hd5⟩, hkeep⟩ := togtrk_writesBytes s
    exact ⟨t, _, _, hexec, hans, memRead_fr s 10, hd4, hd5, rfl, hkeep⟩
  · obtain ⟨t, hexec, hans, ⟨hd4, hd5⟩, hkeep⟩ := togtrkv_writesBytes s new
    exact ⟨t, hexec, hans, hd4.trans (memRead_fr s 10).symm, hd5, hkeep⟩

theorem KeepsFrame.trans {l : List Nat} {s t u : State} (h : KeepsFrame l s t) (h' : KeepsFrame l t u) :
    KeepsFrame l s u :=
  fun a ha => (h' a ha).trans (h a ha)

theorem readFr_eq_of_memRead {s : State} {i : Fin 13} {x : Byte} (h : s.memRead .fr i.val = some x) :
    s.readFr i = x :=
  Option.some.inj ((memRead_fr s i).symm.trans h)

/-- Settles O34: the second TOGTRK reads the flipped `d5` that the first one wrote. -/
theorem twoTogglesRestoreState : Obligations.TwoTogglesRestoreState := by
  intro s x hx
  have hd5 : s.readFr 10 = x := readFr_eq_of_memRead hx
  constructor
  · obtain ⟨t, hfirst, _, ⟨_, hflip⟩, hkeep, _⟩ := togtrk_writesBytes { s with port := wordsOf [.togtrk] }
    obtain ⟨u, hsecond, _, ⟨hd4', hd5'⟩, hkeep', _⟩ := togtrk_writesBytes { t with port := [] }
    have hrun := (runOps_cons (decode_encode .togtrk) hfirst).trans (runOps_singleton hsecond)
    have hmid : t.readFr 10 = x ^^^ 1 := hd5 ▸ readFr_eq_of_memRead hflip
    have hback : t.readFr 10 ^^^ 1 = x := by rw [hmid, BitVec.xor_assoc, BitVec.xor_self, BitVec.xor_zero]
    exact ⟨u, hrun, hd5'.trans (congrArg some hback), hd4'.trans (congrArg some hmid), hkeep.trans hkeep'⟩
  · rintro i (rfl | ⟨new, rfl⟩)
    · obtain ⟨t, hexec, _, ⟨hd4, _⟩, _⟩ := togtrk_writesBytes s
      exact ⟨t, hexec, hd4.trans (congrArg some hd5)⟩
    · obtain ⟨t, hexec, _, ⟨hd4, _⟩, _⟩ := togtrkv_writesBytes s new
      exact ⟨t, hexec, hd4.trans (congrArg some hd5)⟩

/-! ## FRESP (R94) -/

theorem getElem_responseFrame_one (fr : Frame) : (responseFrame fr)[1] = forceResp fr[1] :=
  Vector.getElem_set_self _

theorem getElem_responseFrame_of_ne (fr : Frame) {i : Fin 13} (hi : i ≠ 1) : (responseFrame fr)[i] = fr[i] :=
  Vector.getElem_set_ne _ _ fun h => hi (Fin.ext h.symm)

theorem getLsbD_forceResp (b : Byte) : (forceResp b).getLsbD 0 = true := by
  rw [forceResp, BitVec.getLsbD_or]
  exact Bool.or_true _

/-- Settles O35: the answer is the frame with byte 1 replaced, and the registers stay. -/
theorem frespForcesResponseBit : Obligations.FrespForcesResponseBit := by
  intro s
  refine ⟨_, responseFrame s.fr, rfl, rfl, keepsAll_respond s _, getElem_responseFrame_one s.fr, ?_,
    fun i => getElem_responseFrame_of_ne s.fr⟩
  rw [getElem_responseFrame_one, getLsbD_forceResp]

end Sys2Proof.Machine

/-! # A built track-state frame read by the decoder (42_builder.md R87 to R91, 43_decoder.md R120; S3) -/

namespace Sys2Proof.Machine

/-- The report of a frame with command code 34 (R100, R104, R120). -/
theorem report_of_trackState {fr : Frame} (h : commandCode fr = 34) :
    report fr = [.raw fr, .msgType (respFlag fr), .command 34 .trackState, .dlc fr[4], .devId fr[5] fr[6] fr[7] fr[8],
      .devNum (halfOf fr[5] fr[6]), .contact (halfOf fr[7] fr[8]), .stRecent fr[9], .state fr[10]] := by
  rw [report, reportHeader, h]
  rfl

/-- The bytes of a track-state frame: command with data length, hash, track state. -/
def trackFrameBytes (r : Bool) (hash dev sub : Half) (state recent : Byte) : List (Fin 13 × Byte) :=
  commandBytes 0x22 r 8 ++ hashBytes hash ++ trackBytes dev sub state recent

/-- A writing operation as the first of a run. -/
theorem runOps_writeBytes {i : Instr} {ws : List (Fin 13 × Byte)}
    (h : ∀ s, exec i s = .next ((s.writeBytes ws).respond .none)) (is : List Instr) (s : State) :
    ∃ t, runOps s (i :: is) = runOps t is ∧ t.fr = (s.writeBytes ws).fr :=
  ⟨_, runOps_cons (decode_encode i) (h _), fr_writeBytes_congr (s := s) (t := { s with port := wordsOf is }) rfl ws⟩

/-- After the run up to DECODE each of these bytes stands in its register. -/
theorem runOps_build_trackFrame (s : State) (r : Bool) (hash dev sub : Half) (state recent : Byte) (is : List Instr) :
    ∃ t, runOps s (.fclr :: .setcmd 0x22 r 8 :: .sethash hash :: .settrk dev sub state recent :: is) = runOps t is ∧
      ∀ w ∈ trackFrameBytes r hash dev sub state recent, t.readFr w.1 = w.2 := by
  obtain ⟨t₀, hclr⟩ : ∃ t₀, runOps s (.fclr :: .setcmd 0x22 r 8 :: .sethash hash ::
      .settrk dev sub state recent :: is) = runOps t₀ _ := ⟨_, runOps_cons (decode_encode .fclr) rfl⟩
  obtain ⟨t₁, hcmd, hfr₁⟩ := runOps_writeBytes (exec_setcmd 0x22 r 8) _ t₀
  obtain ⟨t₂, hhash, hfr₂⟩ := runOps_writeBytes (exec_sethash hash) _ t₁
  obtain ⟨t, htrk, hfr₃⟩ := runOps_writeBytes (exec_settrk dev sub state recent) is t₂
  refine ⟨t, hclr.trans (hcmd.trans (hhash.trans htrk)), ?_⟩
  have hfr : t.fr = (t₀.writeBytes (trackFrameBytes r hash dev sub state recent)).fr := by
    rw [trackFrameBytes, writeBytes_append, writeBytes_append, hfr₃]
    exact fr_writeBytes_congr (hfr₂.trans (fr_writeBytes_congr hfr₁ _)) _
  have hdistinct : ((trackFrameBytes r hash dev sub state recent).map Prod.fst).Nodup :=
    (by decide : ([1, 4, 2, 3, 5, 6, 7, 8, 9, 10] : List (Fin 13)).Nodup)
  intro w hw
  rw [State.readFr, hfr]
  exact readFr_writeBytes_of_mem t₀ hdistinct hw

/-- DECODE as the last operation of a run. -/
theorem runOps_decode (s : State) : ∃ t, runOps s [.decode] = .next t ∧ Answers t (.report (report s.fr)) :=
  ⟨_, runOps_singleton rfl, rfl⟩

/-- Settles O49: each byte that the report and the hash pair name is the one that the build wrote there. -/
theorem builtTrackStateFrameDecodes : Obligations.BuiltTrackStateFrameDecodes := by
  intro s r id dev sub state recent
  obtain ⟨u, hbuild, hbytes⟩ := runOps_build_trackFrame s r (addressHash id) dev sub state recent [.decode]
  obtain ⟨t, hdecode, hans⟩ := runOps_decode u
  obtain ⟨hcmd, hdlc, hhi, hlo, hd0, hd1, hd2, hd3, hd4, hd5⟩ := List.forall_iff_forall_mem.mpr hbytes
  obtain ⟨hflag, hcode⟩ := commandByte_of_even (code := 0x22) (by decide) r
  have hresp : respFlag u.fr = r := (congrArg (·.getLsbD 0) hcmd).trans hflag
  have hclass : commandCode u.fr = 34 := (congrArg (· &&& 0xFE) hcmd).trans hcode
  have hlen : u.fr[4] = 8 := hdlc
  have hhash : halfOf u.fr[2] u.fr[3] = addressHash id := (congrArg₂ halfOf hhi hlo).trans (halfOf_hiByte_loByte _)
  have hdev : halfOf u.fr[5] u.fr[6] = dev := (congrArg₂ halfOf hd0 hd1).trans (halfOf_hiByte_loByte dev)
  have hsub : halfOf u.fr[7] u.fr[8] = sub := (congrArg₂ halfOf hd2 hd3).trans (halfOf_hiByte_loByte sub)
  have hrecent : u.fr[9] = recent := hd4
  have hstate : u.fr[10] = state := hd5
  rw [report_of_trackState hclass, hresp, hlen, hdev, hsub, hrecent, hstate] at hans
  exact ⟨t, u.fr, hbuild.trans hdecode, hhash, hans⟩

end Sys2Proof.Machine

/-! # The DECODE unit (43_decoder.md R100 to R127)

The report is four header items and a body that the command class chooses. Both look-up tables, of the command codes and
of the subcommands, are read in both directions here: from the number to the entry, and back. -/

namespace Sys2Proof.Machine

/-! ## The command table, read from the class back to the code (R104) -/

/-- The code of a recognised command. -/
def CommandClass.code : CommandClass → Option Nat
  | .systemCommand => some 0
  | .mfxDiscovery => some 2
  | .mfxBind => some 4
  | .mfxVerify => some 6
  | .locSpeed => some 8
  | .locDirection => some 10
  | .locFunction => some 12
  | .locReadConfig => some 14
  | .locWriteConfig => some 16
  | .equipmentSwitch => some 22
  | .trackState => some 34
  | .memberPing => some 48
  | .statusdataConfig => some 58
  | .unknown => none

theorem toNat_of_commandClass {c : Byte} {cls : CommandClass} {n : Nat} (hcls : commandClass c = cls)
    (hn : cls.code = some n) : c.toNat = n := by
  subst hcls
  unfold commandClass at hn
  split at hn
  case h_14 => cases hn
  all_goals exact ‹c.toNat = _›.trans (Option.some.inj hn)

theorem commandClass_eq_unknown_iff (c : Byte) :
    commandClass c = .unknown ↔ c.toNat ∉ [0, 2, 4, 6, 8, 10, 12, 14, 16, 22, 34, 48, 58] := by
  unfold commandClass
  split <;> simp_all

/-- Settles O39: each row of the table by its code; a code that is in no row has no entry in the list. -/
theorem commandTableIsTheSpecs : Obligations.CommandTableIsTheSpecs := by
  intro b
  generalize b &&& 0xFE = c
  cases hcls : commandClass c
  case unknown =>
    have hcode := (commandClass_eq_unknown_iff c).mp hcls
    rw [List.lookup_eq_none_iff.mpr (by simpa using hcode)]
    rfl
  all_goals rw [toNat_of_commandClass hcls rfl]; rfl

/-! ## DECODE (R100, R105, R124, R125) -/

theorem exec_decode (s : State) : exec .decode s = .next (s.respond (.report (report s.fr))) := rfl

/-- DECODE at a frame with a known number as its command code. -/
theorem decodesTo_of_code {s : State} {n : Nat} (h : (s.readFr 1 &&& 0xFE).toNat = n) :
    DecodesTo s (commandClass (BitVec.ofNat 8 n)) (reportBody s.fr (commandClass (BitVec.ofNat 8 n))) :=
  decodesTo_intro s (commandClass_of_toNat h) rfl

/-- Settles O40: a code outside the table has the empty body, and the answer is a function of the frame. -/
theorem decodeAnswersEveryFrame : Obligations.DecodeAnswersEveryFrame := by
  constructor
  · intro s hcode
    exact decodesTo_intro s ((commandClass_eq_unknown_iff _).mpr hcode) rfl
  · intro s
    refine ⟨_, report s.fr, exec_decode s, rfl, keepsAll_respond s _, fun u hu => ⟨_, exec_decode u, ?_⟩⟩
    rw [hu]
    rfl

/-! ## The subcommands of the System command (R108 to R110) -/

/-- The value of `d4` that names a subcommand. -/
def Subcommand.code : Subcommand → Nat
  | .stopp => 0
  | .go => 1
  | .halt => 2
  | .locEmergencyStop => 3
  | .locEndCycle => 4
  | .mfxNewNotifyingCounter => 9
  | .systemOverload => 10
  | .systemStatus => 11
  | .systemQuestion => 48

theorem subcommandOf_eq_some_iff (d4 : Byte) (sub : Subcommand) :
    subcommandOf d4 = some sub ↔ d4.toNat = sub.code := by
  constructor
  · intro h
    unfold subcommandOf at h
    split at h
    case h_10 => cases h
    all_goals cases h; assumption
  · intro h
    rw [subcommandOf, h]
    cases sub <;> rfl

theorem subcommandOf_eq_none_iff (d4 : Byte) :
    subcommandOf d4 = none ↔ ∀ sub : Subcommand, d4.toNat ≠ sub.code := by
  simp only [Option.eq_none_iff_forall_ne_some, ne_eq, subcommandOf_eq_some_iff]

theorem systemBody_of_code {fr : Frame} (sub : Subcommand) (h : (dataByte fr 4).toNat = sub.code) :
    systemBody fr = devIdItem fr :: .subCmd sub :: subcommandExtra fr sub := by
  rw [systemBody, (subcommandOf_eq_some_iff _ _).mpr h]
  rfl

theorem systemBody_of_no_code {fr : Frame} (h : ∀ sub : Subcommand, (dataByte fr 4).toNat ≠ sub.code) :
    systemBody fr = [devIdItem fr, .unkSub (dataByte fr 4)] := by
  rw [systemBody, (subcommandOf_eq_none_iff _).mpr h]

/-- Settles O41: the branch of the chain names the subcommand; the last branch has excluded all nine. -/
theorem systemCommandDispatchesOnSubcommand : Obligations.SystemCommandDispatchesOnSubcommand := by
  refine ⟨fun s hcode => decodesTo_intro s (congrArg commandClass hcode) ?_, rfl⟩
  show systemBody s.fr = _
  split_ifs with h0 h1 h2 h3 h4 h9 h10 h11 h48
  · exact systemBody_of_code .stopp h0
  · exact systemBody_of_code .go h1
  · exact systemBody_of_code .halt h2
  · exact systemBody_of_code .locEmergencyStop h3
  · exact systemBody_of_code .locEndCycle h4
  · exact systemBody_of_code .mfxNewNotifyingCounter h9
  · exact systemBody_of_code .systemOverload h10
  · exact systemBody_of_code .systemStatus h11
  · exact systemBody_of_code .systemQuestion h48
  · exact systemBody_of_no_code (by rintro ⟨⟩ <;> assumption)

/-! ## MFX Discovery (R111, R112) -/

theorem protocolIs_protocolOf (v : Byte) : ProtocolIs v (protocolOf v) := by
  rcases Nat.lt_trichotomy v.toNat 0x21 with h | h | h
  · have hcls : protocolOf v = .mfxProgRail := if_pos h
    rw [hcls]
    exact .inl ⟨Nat.le_of_lt_succ h, rfl, rfl, rfl⟩
  · have hcls : protocolOf v = .mm2 := (if_neg h.not_lt).trans (if_pos h)
    rw [hcls]
    exact .inr (.inl ⟨h, rfl, rfl, rfl⟩)
  · have hcls : protocolOf v = .mfxMainRail := (if_neg h.not_gt).trans (if_neg h.ne')
    rw [hcls]
    exact .inr (.inr ⟨h, rfl, rfl, rfl⟩)

theorem discoveryBody_eq_ite (fr : Frame) : discoveryBody fr =
    if fr[4] = 1 then [protocolItem (dataByte fr 0)]
    else if fr[4] = 5 then [devIdItem fr, protocolItem (dataByte fr 4)]
    else if fr[4] = 6 then [devIdItem fr, protocolItem (dataByte fr 4), .sigQ (dataByte fr 5)]
    else [.unkDlc fr[4]] := by
  simp only [← BitVec.toNat_inj]
  unfold discoveryBody
  split <;> simp_all

/-- Settles O42: the data length selects the body, and each protocol byte has the class of its range. -/
theorem discoveryDispatchesOnLength : Obligations.DiscoveryDispatchesOnLength := by
  intro s hcode
  exact ⟨_, _, protocolIs_protocolOf _, protocolIs_protocolOf _,
    decodesTo_intro s (congrArg commandClass hcode) (discoveryBody_eq_ite s.fr)⟩

/-! ## Device-id commands, Equipment switch and Track state (R113, R119, R120) -/

/-- Settles O43: each of the seven classes has the body DEVID. -/
theorem deviceIdOnlyCommands : Obligations.DeviceIdOnlyCommands := by
  intro s
  exact List.forall_iff_forall_mem.mp ⟨decodesTo_of_code, decodesTo_of_code, decodesTo_of_code, decodesTo_of_code,
    decodesTo_of_code, decodesTo_of_code, decodesTo_of_code⟩

/-- Settles O44: the data length as a byte is 8 exactly when its number is. -/
theorem equipmentSwitchReport : Obligations.EquipmentSwitchReport := by
  intro s hcode
  have hlen : s.fr[4] = 8 ↔ (s.readFr 4).toNat = 8 := BitVec.toNat_inj.symm
  refine decodesTo_intro s (commandClass_of_toNat hcode) ?_
  rw [reportBody, equipmentBody]
  simp only [hlen]
  rfl

theorem decodesTo_trackState {s : State} (hcode : (s.readFr 1 &&& 0xFE).toNat = 34) :
    DecodesTo s .trackState [devIdOf s, .devNum (halfOf (s.readFr 5) (s.readFr 6)),
      .contact (halfOf (s.readFr 7) (s.readFr 8)), .stRecent (s.readFr 9), .state (s.readFr 10)] :=
  decodesTo_of_code hcode

/-- Settles O45: SETTRK leaves the command byte, and writes each operand where the report reads it. -/
theorem trackStateReportInvertsSettrk : Obligations.TrackStateReportInvertsSettrk := by
  intro s hcode
  refine ⟨⟨_, _, halfOf_toNat _ _, halfOf_toNat _ _, decodesTo_trackState hcode⟩, fun dev sub state recent => ?_⟩
  obtain ⟨t, hexec, _, ⟨hd0, hd1, hd2, hd3, hd4, hd5⟩, hkeep, _⟩ := settrk_writesBytes s dev sub state recent
  have hcmd : t.readFr 1 = s.readFr 1 :=
    readFr_eq_of_memRead ((hkeep 1 (by decide : 1 ∉ [5, 6, 7, 8, 9, 10])).trans (memRead_fr s 1))
  have hdecode := decodesTo_trackState (s := t) (hcmd ▸ hcode)
  rw [readFr_eq_of_memRead hd0, readFr_eq_of_memRead hd1, readFr_eq_of_memRead hd2, readFr_eq_of_memRead hd3,
    readFr_eq_of_memRead hd4, readFr_eq_of_memRead hd5, halfOf_hiByte_loByte, halfOf_hiByte_loByte] at hdecode
  exact ⟨t, hexec, hdecode⟩

/-! ## Member ping and Statusdata config (R121, R122) -/

/-- The body reads the data bytes and the data length; the response flag in a Member ping alone. -/
theorem reportBody_congr {fr fr' : Frame} {cls : CommandClass} (hdata : dataByte fr' = dataByte fr)
    (hlen : fr'[4] = fr[4]) (hflag : cls = .memberPing → respFlag fr' = respFlag fr) :
    reportBody fr' cls = reportBody fr cls := by
  have hdev : devIdItem fr' = devIdItem fr := by rw [devIdItem, devIdItem, hdata]
  have hextra : subcommandExtra fr' = subcommandExtra fr := by
    funext sub; cases sub <;> simp only [subcommandExtra, hdata]
  cases cls
  case systemCommand => simp only [reportBody, systemBody, hdev, hextra, hdata]
  case mfxDiscovery => simp only [reportBody, discoveryBody, hdev, hdata, hlen]
  case equipmentSwitch => simp only [reportBody, equipmentBody, hdev, hdata, hlen]
  case trackState => simp only [reportBody, trackBody, hdev, hdata]
  case memberPing => simp only [reportBody, pingBody, hdev, hdata, hflag rfl]
  case statusdataConfig => simp only [reportBody, statusdataBody, hdev, hlen]
  case unknown => rfl
  all_goals exact congrArg (fun i => [i]) hdev

theorem drop_four_report (fr : Frame) : (report fr).drop 4 = reportBody fr (commandClass (commandCode fr)) := rfl

/-- The other value of the response flag leaves the command code. -/
theorem xor_one_and_0xFE : ∀ b : Byte, (b ^^^ 1) &&& 0xFE = b &&& 0xFE := by decide

/-- Toggling the response flag of a frame that is no Member ping leaves the body. -/
theorem drop_four_report_toggle_resp {fr : Frame} (hcode : (commandCode fr).toNat ≠ 48) :
    (report (fr.set 1 (fr[1] ^^^ 1))).drop 4 = (report fr).drop 4 := by
  have hkeep : commandCode (fr.set 1 (fr[1] ^^^ 1)) = commandCode fr := by
    rw [commandCode, Vector.getElem_set_self, xor_one_and_0xFE, commandCode]
  have hdata : dataByte (fr.set 1 (fr[1] ^^^ 1)) = dataByte fr :=
    funext fun k => Vector.getElem_set_ne _ _ (by omega)
  rw [drop_four_report, drop_four_report, hkeep]
  exact reportBody_congr hdata (Vector.getElem_set_ne _ _ (by decide))
    fun hping => absurd (toNat_of_commandClass hping rfl) hcode

/-- Settles O46: the versions stand under the response flag, DEVID of code 58 under the data length. -/
theorem pingAndStatusdataReports : Obligations.PingAndStatusdataReports := by
  refine ⟨fun s hcode => decodesTo_of_code hcode, fun fr => drop_four_report_toggle_resp, fun s hcode => ?_⟩
  have hlen : (s.fr[4] = 5 ∨ s.fr[4] = 6) ↔ ((s.readFr 4).toNat = 5 ∨ (s.readFr 4).toNat = 6) :=
    or_congr BitVec.toNat_inj.symm BitVec.toNat_inj.symm
  refine decodesTo_intro s (commandClass_of_toNat hcode) ?_
  rw [reportBody, statusdataBody]
  simp only [hlen]
  rfl

/-! ## The size of a report (R126) -/

/-- The numbers of items that a report of a class can have. -/
def reportSizes : CommandClass → List Nat
  | .systemCommand => [6, 7]
  | .mfxDiscovery => [5, 6, 7]
  | .equipmentSwitch => [7, 8]
  | .trackState => [9]
  | .memberPing => [5, 7]
  | .statusdataConfig => [4, 5]
  | .unknown => [4]
  | _ => [5]

theorem reportBody_length_mem (fr : Frame) (cls : CommandClass) :
    4 + (reportBody fr cls).length ∈ reportSizes cls := by
  cases cls
  case systemCommand =>
    rw [reportBody, systemBody]
    rcases subcommandOf (dataByte fr 4) with _ | sub
    · exact List.mem_cons_self
    · cases sub <;> simp [subcommandExtra, reportSizes]
  case mfxDiscovery => rw [reportBody, discoveryBody]; split <;> simp [reportSizes]
  case equipmentSwitch => rw [reportBody, equipmentBody]; split <;> simp [reportSizes]
  case memberPing => rw [reportBody, pingBody]; split <;> simp [reportSizes]
  case statusdataConfig => rw [reportBody, statusdataBody]; split <;> simp [reportSizes]
  all_goals exact List.mem_singleton.mpr rfl

theorem report_length_mem (fr : Frame) : (report fr).length ∈ reportSizes (commandClass (commandCode fr)) := by
  rw [report, List.length_append, reportHeader_length]
  exact reportBody_length_mem fr _

theorem reportSizes_bounds (cls : CommandClass) : ∀ n ∈ reportSizes cls, 4 ≤ n ∧ n ≤ 9 := by
  cases cls <;> decide

/-- Settles O47: the code gives the class, and the class the sizes. -/
theorem reportSizeByCommand : Obligations.ReportSizeByCommand := by
  intro fr n
  have hsize : n ∈ reportSizes (commandClass (commandCode fr)) := report_length_mem fr
  obtain ⟨hmin, hmax⟩ := reportSizes_bounds _ n hsize
  refine ⟨hmin, hmax, ?_⟩
  split
  case h_14 =>
    rw [(commandClass_eq_unknown_iff _).mpr (by simp_all [commandCode])] at hsize
    exact List.mem_singleton.mp hsize
  all_goals
    rw [commandClass_of_toNat (code := commandCode fr) ‹_›] at hsize
    simpa [commandClass, reportSizes] using hsize

/-! ## The wires (R127) -/

/-- The payload wire of the kind of a reported item carries that item. -/
theorem kindPayload_kind {fr : Frame} {x : Item} (hx : x ∈ report fr) : kindPayload fr x.kind = some x := by
  revert x
  rw [← List.forall_iff_forall_mem, report, List.forall_append]
  refine ⟨⟨rfl, rfl, rfl, rfl⟩, ?_⟩
  cases commandClass (commandCode fr)
  case systemCommand =>
    rw [reportBody, systemBody]
    split
    case h_1 sub hsub => cases sub <;> simp [subcommandExtra, Item.kind, devIdItem, kindPayload, hsub]
    case h_2 => exact ⟨rfl, rfl⟩
  case mfxDiscovery =>
    rw [reportBody, discoveryBody_eq_ite]
    split_ifs <;> simp [Item.kind, devIdItem, protocolItem, kindPayload, *]
  case equipmentSwitch => rw [reportBody, equipmentBody]; split <;> simp [Item.kind, devIdItem, kindPayload]
  case trackState => exact ⟨rfl, rfl, rfl, rfl, rfl⟩
  case memberPing => rw [reportBody, pingBody]; split <;> simp [Item.kind, devIdItem, kindPayload]
  case statusdataConfig => rw [reportBody, statusdataBody]; split <;> simp [Item.kind, devIdItem, kindPayload]
  case unknown => trivial
  all_goals exact rfl

/-- The kinds above the header that the mask marks, in ascending order. -/
def markedBodyKinds (fr : Frame) : List Nat := (List.range' 4 18).filter (kindValid fr)

theorem markedBodyKinds_system {fr : Frame} (hcode : (commandCode fr).toNat = 0) :
    markedBodyKinds fr = (systemBody fr).map Item.kind := by
  have hcls : commandClass (commandCode fr) = .systemCommand := commandClass_of_toNat hcode
  have hforeign : (List.range' 10 12).filter (kindValid fr) = [] := by simp [kindValid, hcode, List.range']
  have hsplit : markedBodyKinds fr = [4, 5, 6].filter (kindValid fr) ++ [7, 8, 9].filter (kindValid fr) := by
    have hrange : List.range' 4 18 = [4, 5, 6] ++ [7, 8, 9] ++ List.range' 10 12 := rfl
    rw [markedBodyKinds, hrange, List.filter_append, hforeign, List.append_nil, List.filter_append]
  rw [systemBody, hsplit]
  split
  case h_1 sub hsub =>
    have hd4 := (subcommandOf_eq_some_iff _ _).mp hsub
    have hhead : [4, 5, 6].filter (kindValid fr) = [4, 5] := by simp [kindValid, hcode, hcls, hsub]
    have hextra : [7, 8, 9].filter (kindValid fr) = (subcommandExtra fr sub).map Item.kind := by
      cases sub <;> simp [kindValid, hcode, hd4, Subcommand.code, subcommandExtra, Item.kind]
    rw [hhead, hextra, List.map_append]
    rfl
  case h_2 hsub =>
    have hd4 := (subcommandOf_eq_none_iff _).mp hsub
    have hhead : [4, 5, 6].filter (kindValid fr) = [4, 6] := by simp [kindValid, hcode, hcls, hsub]
    have hextra : [7, 8, 9].filter (kindValid fr) = [] := by
      have h9 : (dataByte fr 4).toNat ≠ 9 := hd4 .mfxNewNotifyingCounter
      have h10 : (dataByte fr 4).toNat ≠ 10 := hd4 .systemOverload
      have h11 : (dataByte fr 4).toNat ≠ 11 := hd4 .systemStatus
      have h48 : (dataByte fr 4).toNat ≠ 48 := hd4 .systemQuestion
      simp [kindValid, hcode, h9, h10, h11, h48]
    rw [hhead, hextra]
    rfl

theorem markedBodyKinds_discovery {fr : Frame} (hcode : (commandCode fr).toNat = 2) :
    markedBodyKinds fr = (discoveryBody fr).map Item.kind := by
  have hcls : commandClass (commandCode fr) = .mfxDiscovery := commandClass_of_toNat hcode
  rw [discoveryBody]
  split <;> simp_all [markedBodyKinds, kindValid, Item.kind, devIdItem, protocolItem, List.range']

theorem markedBodyKinds_equipment {fr : Frame} (hcode : (commandCode fr).toNat = 22) :
    markedBodyKinds fr = (equipmentBody fr).map Item.kind := by
  have hcls : commandClass (commandCode fr) = .equipmentSwitch := commandClass_of_toNat hcode
  rw [equipmentBody]
  split <;> simp_all [markedBodyKinds, kindValid, Item.kind, devIdItem, List.range', ← BitVec.toNat_inj]

theorem markedBodyKinds_track {fr : Frame} (hcode : (commandCode fr).toNat = 34) :
    markedBodyKinds fr = (trackBody fr).map Item.kind := by
  have hcls : commandClass (commandCode fr) = .trackState := commandClass_of_toNat hcode
  simp [markedBodyKinds, kindValid, hcode, hcls, trackBody, Item.kind, devIdItem, List.range']

theorem markedBodyKinds_ping {fr : Frame} (hcode : (commandCode fr).toNat = 48) :
    markedBodyKinds fr = (pingBody fr).map Item.kind := by
  have hcls : commandClass (commandCode fr) = .memberPing := commandClass_of_toNat hcode
  rw [pingBody]
  split <;> simp_all [markedBodyKinds, kindValid, Item.kind, devIdItem, List.range']

theorem markedBodyKinds_statusdata {fr : Frame} (hcode : (commandCode fr).toNat = 58) :
    markedBodyKinds fr = (statusdataBody fr).map Item.kind := by
  have hcls : commandClass (commandCode fr) = .statusdataConfig := commandClass_of_toNat hcode
  rw [statusdataBody]
  split <;> simp_all [markedBodyKinds, kindValid, Item.kind, devIdItem, List.range', ← BitVec.toNat_inj]

/-- The mask marks DEVID alone for every other code of the table. -/
theorem markedBodyKinds_deviceId {fr : Frame} (hknown : commandClass (commandCode fr) ≠ .unknown)
    (hcode : (commandCode fr).toNat ∉ [0, 2, 22, 34, 48, 58]) : markedBodyKinds fr = [4] := by
  simp only [List.mem_cons, List.not_mem_nil, or_false, not_or] at hcode
  simp [markedBodyKinds, kindValid, hcode, hknown, List.range']

theorem markedBodyKinds_unknown {fr : Frame} (hcls : commandClass (commandCode fr) = .unknown) :
    markedBodyKinds fr = [] := by
  have hcode := (commandClass_eq_unknown_iff _).mp hcls
  simp only [List.mem_cons, List.not_mem_nil, or_false, not_or] at hcode
  simp [markedBodyKinds, kindValid, hcode, hcls, List.range']

/-- Above the header, the kinds that the mask marks are those of the body, in its order. -/
theorem markedBodyKinds_eq (fr : Frame) :
    markedBodyKinds fr = (reportBody fr (commandClass (commandCode fr))).map Item.kind := by
  cases hcls : commandClass (commandCode fr)
  case systemCommand => exact markedBodyKinds_system (toNat_of_commandClass hcls rfl)
  case mfxDiscovery => exact markedBodyKinds_discovery (toNat_of_commandClass hcls rfl)
  case equipmentSwitch => exact markedBodyKinds_equipment (toNat_of_commandClass hcls rfl)
  case trackState => exact markedBodyKinds_track (toNat_of_commandClass hcls rfl)
  case memberPing => exact markedBodyKinds_ping (toNat_of_commandClass hcls rfl)
  case statusdataConfig => exact markedBodyKinds_statusdata (toNat_of_commandClass hcls rfl)
  case unknown => exact markedBodyKinds_unknown hcls
  all_goals
    refine markedBodyKinds_deviceId (hcls ▸ by decide) ?_
    rw [toNat_of_commandClass hcls rfl]
    decide

/-- The kinds that the mask marks are those of the report, in its order. -/
theorem filter_kindValid (fr : Frame) : (List.range 22).filter (kindValid fr) = (report fr).map Item.kind := by
  have hsplit : List.range 22 = [0, 1, 2, 3] ++ List.range' 4 18 := rfl
  rw [hsplit, List.filter_append, ← markedBodyKinds, markedBodyKinds_eq, report, List.map_append]
  rfl

/-- The wires give the payloads of the marked kinds in ascending order. -/
theorem reportFromWires_eq_filterMap (fr : Frame) (payload : Nat → Option Item) :
    reportFromWires (validMask fr) payload = ((List.range 22).filter (kindValid fr)).filterMap payload := by
  rw [List.filterMap_filter]
  exact List.filterMap_congr fun k hk => by rw [getLsbD_validMask fr (List.mem_range.mp hk)]

/-- Settles O48: the marked kinds are those of the report, and each carries its item as payload. -/
theorem reportEqualsWires : Obligations.ReportEqualsWires := by
  intro fr
  refine ⟨?_, ?_, fun k hk => ?_⟩
  · rw [reportFromWires_eq_filterMap, filter_kindValid, List.filterMap_map]
    exact (List.filterMap_congr fun x hx => kindPayload_kind hx).trans List.filterMap_some
  · rw [← filter_kindValid]
    exact List.pairwise_lt_range.filter _
  · rw [getLsbD_validMask fr hk, ← filter_kindValid, List.mem_filter, List.mem_range]
    exact (and_iff_right hk).symm

end Sys2Proof.Machine

/-! # The TRACKER unit (44_tracker.md R140 to R153)

The frame of every operation of the unit is that of R19: it leaves `FR`, `RXBUF` and `RXLEN` alone. What it writes is said
channel by channel. The list of TDIFF is the map of `State.changeAt` over `State.changedChannels`, a sublist of the
ascending channel list; order, length and membership all follow from that form. -/

namespace Sys2Proof.Machine

/-! ## What a tracker operation keeps (R19, R152) -/

theorem exec_keeps_frame_staging_port_of_isTracker {i : Instr} {s t : State} (hi : isTracker i = true)
    (h : exec i s = .next t) : KeepsFrame [] s t ∧ KeepsStaging s t ∧ KeepsPort s t := by
  obtain ⟨hfr, hrxbuf, hrxlen⟩ := exec_keeps_frame_unit_of_isTracker hi h
  obtain ⟨t', _, h', _, hport, hnch⟩ := exec_answers i s
  cases h'.symm.trans h
  exact ⟨keepsFrame_of_fr_eq hfr, ⟨keepsStaged_of_rxbuf_eq hrxbuf, hrxlen⟩, hport, hnch⟩

/-- A channel of `PRV` depends on the register and on NCH alone. -/
theorem prvChan_congr {s t : State} (hprv : t.prv = s.prv) (hnch : t.nch = s.nch) (k : Nat) :
    t.prvChan k = s.prvChan k := by
  rw [State.prvChan, hprv, hnch, State.prvChan]

/-- A set operation does not write `PRV`, in range or out of it (R141, R144). -/
theorem setChannel_keeps_prv {n : Byte} {v : Bool} {s t : State} (h : setChannel n v s = .next t) : t.prv = s.prv := by
  rw [setChannel_eq] at h
  split at h <;> cases h <;> rfl

theorem exec_keeps_prv {i : Instr} {s t : State} (hcommit : i ≠ .tcommit) (hreset : i ≠ .treset)
    (h : exec i s = .next t) : t.prv = s.prv := by
  by_cases hi : isTracker i = false
  · obtain ⟨_, hprv⟩ := exec_keeps_cur_prv_of_not_isTracker hi h
    exact hprv
  · cases i <;> simp only [isTracker, not_true_eq_false] at hi
    case tsetbit n v => exact setChannel_keeps_prv h
    case tseton n => exact setChannel_keeps_prv h
    case tsetoff n => exact setChannel_keeps_prv h
    case tcommit => exact absurd rfl hcommit
    case treset => exact absurd rfl hreset
    all_goals cases h; rfl

/-- Settles O58: every operation answers, and outside the TRACKER unit none writes a tracker register. -/
theorem onlyCommitAndResetWritePrevious : Obligations.OnlyCommitAndResetWritePrevious := by
  intro i s
  obtain ⟨t, _, h, _, hport, hnch⟩ := exec_answers i s
  refine ⟨t, h, hnch, hport, fun hcommit hreset => ?_⟩
  have hprv := exec_keeps_prv hcommit hreset h
  exact ⟨hprv, prvChan_congr hprv hnch⟩

/-! ## One channel: TSETBIT, TSETON, TSETOFF (R141 to R144) -/

theorem channelDocumented_of_range {nch : Nat} {n : Byte} (h1 : 1 ≤ n.toNat) (hn : n.toNat ≤ nch) :
    channelDocumented nch n = true := by
  simp [channelDocumented, h1, hn]

theorem setChannel_of_out_of_range {n : Byte} {s : State} (h : n.toNat = 0 ∨ s.nch < n.toNat) (v : Bool) :
    setChannel n v s = .next (s.raise .channelRange) :=
  (setChannel_eq n v s).trans (if_pos h)

theorem curChan_setCur_setLane {s : State} {n : Nat} (hnch : s.nch ≤ 64) (h1 : 1 ≤ n) (hn : n ≤ s.nch) (v : Bool)
    (k : Nat) : (s.setCur (setLane s.cur n v)).curChan k = if k = n then v else s.curChan k :=
  laneOf_setLane hnch s.cur v h1 hn k

/-- An operation that is a set of one channel writes that channel alone (R141). -/
theorem exec_writes_one_channel {i : Instr} {n : Byte} {v : Bool} {s : State} (hs : s.Inv) (h1 : 1 ≤ n.toNat)
    (hn : n.toNat ≤ s.nch) (hi : isTracker i = true) (hset : exec i s = setChannel n v s) :
    ∃ t, exec i s = .next t ∧ Answers t .none ∧ t.curChan n.toNat = v ∧
      (∀ k, k ≠ n.toNat → t.curChan k = s.curChan k) ∧ t.prv = s.prv ∧ (∀ k, t.prvChan k = s.prvChan k) ∧
      KeepsFrame [] s t ∧ KeepsStaging s t ∧ KeepsPort s t := by
  have h := hset.trans (setChannel_of_documented (channelDocumented_of_range h1 hn) v)
  have hchan := curChan_setCur_setLane hs.nch_le h1 hn v
  exact ⟨_, h, rfl, (hchan n.toNat).trans (if_pos rfl), fun k hk => (hchan k).trans (if_neg hk), rfl, fun _ => rfl,
    exec_keeps_frame_staging_port_of_isTracker hi h⟩

/-- Settles O51: each of the four forms is a set of channel `n` to its own value. -/
theorem setOperationsWriteOneChannel : Obligations.SetOperationsWriteOneChannel := by
  intro s n hs h1 hn
  refine ⟨rfl, rfl, ?_⟩
  simp only [List.forall_mem_cons, List.not_mem_nil, false_implies, implies_true, and_true]
  exact ⟨exec_writes_one_channel hs h1 hn rfl rfl, exec_writes_one_channel hs h1 hn rfl rfl,
    exec_writes_one_channel hs h1 hn rfl rfl, exec_writes_one_channel hs h1 hn rfl rfl⟩

theorem exec_raises_channelRange {i : Instr} {n : Byte} {v : Bool} {s : State} (h : n.toNat = 0 ∨ s.nch < n.toNat)
    (hset : exec i s = setChannel n v s) : ∃ t, exec i s = .next t ∧ Raises t .channelRange ∧ KeepsAll s t :=
  ⟨_, hset.trans (setChannel_of_out_of_range h v), rfl, keepsAll_raise s _⟩

/-- Settles O52: each of the three operations is a set of channel `n`, which is refused out of range. -/
theorem channelOutOfRangeIsRefused : Obligations.ChannelOutOfRangeIsRefused := by
  intro s n v h
  simp only [List.forall_mem_cons, List.not_mem_nil, false_implies, implies_true, and_true]
  exact ⟨exec_raises_channelRange (v := v) h rfl, exec_raises_channelRange (v := true) h rfl,
    exec_raises_channelRange (v := false) h rfl⟩

/-! ## All channels: TSETALL, TCOMMIT, TRESET (R145 to R147) -/

theorem curChan_setCur_mask {s : State} (bits : Operand) {k : Nat} (h1 : 1 ≤ k) (hk : k ≤ s.nch) :
    (s.setCur (bits &&& laneMask s.nch)).curChan k = bits.getLsbD (k - 1) := by
  rw [State.curChan, State.setCur_nch, State.setCur_cur, laneOf_mask, decide_eq_true ⟨h1, hk⟩, Bool.true_and]

theorem getLsbD_and_laneMask_of_lt (bits : Operand) {nch k : Nat} (hk : nch < k) :
    (bits &&& laneMask nch).getLsbD (k - 1) = false :=
  (shiftRight_eq_zero_iff _ nch).mp (and_laneMask_shiftRight_eq_zero bits nch) (k - 1) (Nat.le_sub_one_of_lt hk)

/-- Settles O53: the mask of NCH lets the bits of channels 1..NCH through and no others. -/
theorem tsetallWritesEveryChannel : Obligations.TsetallWritesEveryChannel := fun s bits =>
  ⟨(s.setCur (bits &&& laneMask s.nch)).respond .none, rfl, rfl, fun _ => curChan_setCur_mask bits,
    fun _ => getLsbD_and_laneMask_of_lt bits, rfl, exec_keeps_frame_staging_port_of_isTracker (i := .tsetall bits) rfl rfl⟩

theorem changed_eq_false_of_prv_eq_cur {s : State} (h : s.prv = s.cur) : s.changed = false := by
  simp [State.changed, State.curChan, State.prvChan, h]

/-- Settles O54: after either operation the two registers are equal, and it then writes what they hold. -/
theorem tcommitAndTresetWriteTracker : Obligations.TcommitAndTresetWriteTracker := by
  constructor
  · intro s
    obtain ⟨hframe, hstaging, hport⟩ := exec_keeps_frame_staging_port_of_isTracker (i := .tcommit) (s := s) rfl rfl
    exact ⟨_, rfl, rfl, fun _ => rfl, rfl, changed_eq_false_of_prv_eq_cur rfl, hframe, hstaging, hport, rfl⟩
  · intro s
    obtain ⟨hframe, hstaging, hport⟩ := exec_keeps_frame_staging_port_of_isTracker (i := .treset) (s := s) rfl rfl
    exact ⟨_, rfl, rfl, rfl, rfl, fun k => ⟨laneOf_zero s.nch k, laneOf_zero s.nch k⟩,
      changed_eq_false_of_prv_eq_cur rfl, hframe, hstaging, hport, rfl⟩

/-! ## The list of changed channels: TDIFF (R148) -/

/-- The channels where `CUR` and `PRV` differ, ascending. -/
def State.changedChannels (s : State) : List Nat := s.channels.filter fun k => s.curChan k ≠ s.prvChan k

/-- The triple of channel `k`. -/
def State.changeAt (s : State) (k : Nat) : ChannelChange := ⟨BitVec.ofNat 8 k, s.curChan k, s.prvChan k⟩

theorem mem_changedChannels (s : State) (k : Nat) :
    k ∈ s.changedChannels ↔ 1 ≤ k ∧ k ≤ s.nch ∧ s.curChan k ≠ s.prvChan k := by
  simp only [State.changedChannels, List.mem_filter, mem_channels, decide_eq_true_eq, and_assoc]

theorem changes_eq_map (s : State) : s.changes = s.changedChannels.map s.changeAt := by
  rw [State.changedChannels, ← List.filterMap_eq_map, List.filterMap_filter]
  refine List.filterMap_congr fun k _ => ?_
  by_cases h : s.curChan k = s.prvChan k <;> simp [h, State.changeAt]

theorem changeAt_channel_toNat (s : State) {k : Nat} (hk : k < 256) : (s.changeAt k).channel.toNat = k :=
  Nat.mod_eq_of_lt hk

theorem changeAt_toNat (s : State) (n : Byte) :
    s.changeAt n.toNat = ⟨n, s.curChan n.toNat, s.prvChan n.toNat⟩ := by
  rw [State.changeAt, BitVec.ofNat_toNat, BitVec.setWidth_eq]

/-- Every channel number fits the byte of its triple. -/
theorem changes_map_channel {s : State} (hnch : s.nch ≤ 64) :
    (s.changes.map fun c => c.channel.toNat) = s.changedChannels := by
  rw [changes_eq_map, List.map_map]
  refine (List.map_congr_left fun k hk => ?_).trans (List.map_id _)
  obtain ⟨_, hkn, _⟩ := (mem_changedChannels s k).mp hk
  exact changeAt_channel_toNat s (by omega)

theorem changes_length_le (s : State) : s.changes.length ≤ s.nch := by
  rw [changes_eq_map, List.length_map]
  exact (List.length_filter_le _ _).trans_eq (channels_length s)

theorem mem_changes {s : State} (hnch : s.nch ≤ 64) (c : ChannelChange) :
    c ∈ s.changes ↔ 1 ≤ c.channel.toNat ∧ c.channel.toNat ≤ s.nch ∧ c.current = s.curChan c.channel.toNat ∧
      c.previous = s.prvChan c.channel.toNat ∧ c.current ≠ c.previous := by
  rw [changes_eq_map, List.mem_map]
  constructor
  · rintro ⟨k, hk, rfl⟩
    obtain ⟨h1, hkn, hne⟩ := (mem_changedChannels s k).mp hk
    rw [changeAt_channel_toNat s (by omega)]
    exact ⟨h1, hkn, rfl, rfl, hne⟩
  · rintro ⟨h1, hn, hcur, hprv, hne⟩
    refine ⟨c.channel.toNat, (mem_changedChannels s _).mpr ⟨h1, hn, hcur ▸ hprv ▸ hne⟩, ?_⟩
    rw [changeAt_toNat, ← hcur, ← hprv]

/-- Settles O55: the list is the triples of the changed channels, which ascend as the channels do. -/
theorem tdiffListsChangedChannels : Obligations.TdiffListsChangedChannels := by
  intro s hs
  refine ⟨_, s.changes, rfl, rfl, keepsAll_respond s _, ?_, changes_length_le s, changes_eq_nil s, mem_changes hs.nch_le⟩
  rw [changes_map_channel hs.nch_le]
  exact (channels_ascending s).filter _

/-! ## The flag and the characters: TCHG, TSTR (R140, R149, R150) -/

theorem getElem?_channels {s : State} {k : Nat} (h1 : 1 ≤ k) (hk : k ≤ s.nch) : s.channels[k - 1]? = some k := by
  rw [State.channels, List.getElem?_map, List.getElem?_range (by omega), Option.map_some, Nat.sub_add_cancel h1]

theorem getElem?_shortString {s : State} {k : Nat} (h1 : 1 ≤ k) (hk : k ≤ s.nch) :
    s.shortString[k - 1]? = some (if s.curChan k then '1' else '0') := by
  rw [State.shortString, List.getElem?_map, getElem?_channels h1 hk, Option.map_some]

theorem shortString_length (s : State) : s.shortString.length = s.nch := by
  rw [State.shortString, List.length_map, channels_length]

/-- Settles O56: the flag by its definition, the characters by the channel at each place of the channel list. -/
theorem tchgAndTstrReadTracker : Obligations.TchgAndTstrReadTracker :=
  ⟨fun s => ⟨_, s.changed, rfl, rfl, keepsAll_respond s _, changed_iff s⟩,
    fun s => ⟨_, s.shortString, rfl, rfl, keepsAll_respond s _, shortString_length s, fun _ => getElem?_shortString⟩⟩

/-! ## A set, a commit and a second set (R151) -/

/-- If exactly one channel differs, its triple is the whole list. -/
theorem changes_eq_singleton {s : State} {n : Byte} (h1 : 1 ≤ n.toNat) (hn : n.toNat ≤ s.nch)
    (hdiff : ∀ k, s.curChan k ≠ s.prvChan k ↔ k = n.toNat) :
    s.changes = [⟨n, s.curChan n.toNat, s.prvChan n.toNat⟩] := by
  have hcount : s.channels.count n.toNat = 1 :=
    List.count_eq_one_of_mem ((channels_ascending s).imp Nat.ne_of_lt) ((mem_channels s _).mpr ⟨h1, hn⟩)
  have hchannels : s.changedChannels = [n.toNat] := by
    simp only [State.changedChannels, hdiff]
    rw [List.filter_eq, hcount, List.replicate_one]
  rw [changes_eq_map, hchannels, List.map_singleton, changeAt_toNat]

/-- TSETBIT of a channel in range as the first operation of a run. -/
theorem runOps_tsetbit {s : State} {n : Byte} (hnch : s.nch ≤ 64) (h1 : 1 ≤ n.toNat) (hn : n.toNat ≤ s.nch) (v : Bool)
    (is : List Instr) : ∃ t, runOps s (.tsetbit n v :: is) = runOps t is ∧ t.nch = s.nch ∧
      (∀ k, t.curChan k = if k = n.toNat then v else s.curChan k) ∧ ∀ k, t.prvChan k = s.prvChan k :=
  ⟨_, runOps_cons (decode_encode (.tsetbit n v)) (setChannel_of_documented (s := { s with port := wordsOf is })
    (channelDocumented_of_range h1 hn) v), rfl, curChan_setCur_setLane hnch h1 hn v, fun _ => rfl⟩

/-- TCOMMIT as the first operation of a run. -/
theorem runOps_tcommit (s : State) (is : List Instr) : ∃ t, runOps s (.tcommit :: is) = runOps t is ∧ t.nch = s.nch ∧
    t.prv = t.cur ∧ ∀ k, t.curChan k = s.curChan k :=
  ⟨_, runOps_cons (decode_encode .tcommit) rfl, rfl, rfl, fun _ => rfl⟩

/-- TDIFF as the last operation of a run. -/
theorem runOps_tdiff (s : State) : ∃ t, runOps s [.tdiff] = .next t ∧ Answers t (.changes s.changes) :=
  ⟨_, runOps_singleton rfl, rfl⟩

/-- After a set and a commit the channel has the value in both registers, and the registers are equal (R151). -/
theorem runOps_tsetbit_tcommit {s : State} {n : Byte} (hnch : s.nch ≤ 64) (h1 : 1 ≤ n.toNat) (hn : n.toNat ≤ s.nch)
    (v : Bool) (is : List Instr) : ∃ t, runOps s (.tsetbit n v :: .tcommit :: is) = runOps t is ∧ t.nch = s.nch ∧
      t.prv = t.cur ∧ t.curChan n.toNat = v := by
  obtain ⟨u, hset, hnch_u, hcur_u, _⟩ := runOps_tsetbit hnch h1 hn v (.tcommit :: is)
  obtain ⟨t, hcommit, hnch_t, heq, hcur_t⟩ := runOps_tcommit u is
  exact ⟨t, hset.trans hcommit, hnch_t.trans hnch_u, heq,
    (hcur_t n.toNat).trans ((hcur_u n.toNat).trans (if_pos rfl))⟩

/-- From equal registers, a set with a different value lists exactly that channel (R151). -/
theorem runOps_tsetbit_tdiff_of_prv_eq_cur {s : State} {n : Byte} {v : Bool} (hnch : s.nch ≤ 64) (h1 : 1 ≤ n.toNat)
    (hn : n.toNat ≤ s.nch) (heq : s.prv = s.cur) (hv : s.curChan n.toNat = v) :
    ∃ t, runOps s [.tsetbit n (!v), .tdiff] = .next t ∧ Answers t (.changes [⟨n, !v, v⟩]) := by
  obtain ⟨u, hset, hnch_u, hcur, hprv⟩ := runOps_tsetbit hnch h1 hn (!v) [.tdiff]
  have hsame (k : Nat) : s.prvChan k = s.curChan k := congrArg (laneOf s.nch · k) heq
  have hcur_n : u.curChan n.toNat = !v := (hcur _).trans (if_pos rfl)
  have hprv_n : u.prvChan n.toNat = v := (hprv _).trans ((hsame _).trans hv)
  have hdiff (k : Nat) : u.curChan k ≠ u.prvChan k ↔ k = n.toNat := by
    by_cases hk : k = n.toNat
    · subst hk; simp [hcur_n, hprv_n]
    · simp [hcur, hprv, hsame, hk]
  obtain ⟨t, hlist, hans⟩ := runOps_tdiff u
  rw [changes_eq_singleton h1 (hnch_u ▸ hn) hdiff, hcur_n, hprv_n] at hans
  exact ⟨t, hset.trans hlist, hans⟩

/-- Settles O57: both runs go on from the state after the commit, where the registers are equal. -/
theorem commitThenSetListsThatChannel : Obligations.CommitThenSetListsThatChannel := by
  intro s n v hs h1 hn
  constructor
  · obtain ⟨u, hcommit, _, heq, _⟩ := runOps_tsetbit_tcommit hs.nch_le h1 hn v [.tdiff]
    obtain ⟨t, hlist, hans⟩ := runOps_tdiff u
    rw [(changes_eq_nil u).mpr (changed_eq_false_of_prv_eq_cur heq)] at hans
    exact ⟨t, hcommit.trans hlist, hans⟩
  · obtain ⟨u, hcommit, hnch, heq, hv⟩ := runOps_tsetbit_tcommit hs.nch_le h1 hn v [.tsetbit n (!v), .tdiff]
    obtain ⟨t, hlist, hans⟩ := runOps_tsetbit_tdiff_of_prv_eq_cur (hnch ▸ hs.nch_le) h1 (hnch ▸ hn) heq hv
    exact ⟨t, hcommit.trans hlist, hans⟩

end Sys2Proof.Machine

/-! # The text of the report (45_report_text.md R161)

Each byte of the raw line is a chunk of three characters, so the chunk of byte `i` begins at `3 * i`. -/

namespace Sys2Proof.Machine

/-! ## The raw line comes first -/

theorem report_eq_raw_cons (fr : Frame) : report fr = .raw fr :: (report fr).tail := rfl

theorem line_raw (fr : Frame) : (Item.raw fr).line = rawText fr := String.empty_append

theorem render_cons (it : Item) (items : List Item) (eol : String) :
    render (it :: items) eol = it.line ++ eol ++ render items eol := String.join_cons

/-- The rendered report begins with the raw line (R100, R161). -/
theorem render_report (fr : Frame) (eol : String) :
    render (report fr) eol = rawText fr ++ eol ++ render (report fr).tail eol := by
  rw [report_eq_raw_cons, render_cons, line_raw, List.tail_cons]

/-! ## The characters of the raw line -/

theorem toList_hex2 (b : Byte) : (hex2 b).toList = [hexDigit (b.extractLsb' 4 4), hexDigit (b.extractLsb' 0 4)] := by
  simp [hex2]

/-- The three characters of a byte of the raw line (R161). -/
def rawChunk (b : Byte) : List Char := (hex2 b).toList ++ [' ']

@[simp] theorem rawChunk_length (b : Byte) : (rawChunk b).length = 3 := by simp [rawChunk, toList_hex2]

theorem toList_rawText (fr : Frame) : (rawText fr).toList = fr.toList.flatMap rawChunk := by
  rw [rawText, String.toList_join, List.flatMap_map]
  exact List.flatMap_congr fun b _ => String.toList_append

theorem rawText_length (fr : Frame) : (rawText fr).length = 39 := by
  rw [← String.length_toList, toList_rawText, List.length_flatMap]
  simp

/-- In a concatenation of chunks of length `k`, chunk `i` begins at `k * i`. -/
theorem take_drop_flatMap {α β : Type} {f : α → List β} {k : Nat} (hf : ∀ a, (f a).length = k) (l : List α) (i : Nat)
    (hi : i < l.length) : ((l.flatMap f).drop (k * i)).take k = f l[i] := by
  induction l generalizing i with
  | nil => contradiction
  | cons a l ih =>
    rw [List.flatMap_cons]
    cases i with
    | zero => exact List.take_left' (hf a)
    | succ i =>
      rw [Nat.mul_succ, Nat.add_comm, ← List.drop_drop, List.drop_left' (hf a)]
      exact ih i (Nat.lt_of_succ_lt_succ hi)

theorem take_drop_rawText (fr : Frame) (i : Fin 13) :
    ((rawText fr).toList.drop (3 * i.val)).take 3 = (hex2 fr[i]).toList ++ [' '] := by
  rw [toList_rawText, take_drop_flatMap rawChunk_length _ _ (by simp)]
  rfl

/-! ## The digits of a byte -/

theorem getElem?_hexDigits (n : BitVec 4) : "0123456789abcdef".toList[n.toNat]? = some (hexDigit n) := by
  revert n
  decide

theorem toNat_highNibble (b : Byte) : (b.extractLsb' 4 4).toNat = b.toNat / 16 := by
  rw [BitVec.extractLsb'_toNat, Nat.shiftRight_eq_div_pow]
  omega

theorem toNat_lowNibble (b : Byte) : (b.extractLsb' 0 4).toNat = b.toNat % 16 := BitVec.extractLsb'_toNat ..

/-- Settles O50: the raw item heads the report, and its line is a concatenation of chunks of one length. -/
theorem rawLineIsHexDump : Obligations.RawLineIsHexDump := by
  refine ⟨fun fr eol => ⟨_, render_report fr eol⟩, fun fr => ⟨rawText_length fr, take_drop_rawText fr⟩, fun b => ?_⟩
  refine ⟨_, _, toList_hex2 b, ?_, ?_⟩
  · rw [← toNat_highNibble, getElem?_hexDigits]
  · rw [← toNat_lowNibble, getElem?_hexDigits]

end Sys2Proof.Machine

/-! # Errors and statuses (60_exceptions.md R176 to R183)

An operation ends in one of two ways: with OK, or in `State.failed` with the one error that `possibleError` gives it. The
frame of an error is that of `State.failed`, and its status is read off the opcode of the operation. -/

namespace Sys2Proof.Machine

/-! ## The last response is not read (R179) -/

/-- Every operation does the same whatever was answered before it. RXPUT is split because its staged state depends on
the count. -/
theorem exec_with_resp (i : Instr) (s : State) (r : Option Response) : exec i { s with resp := r } = exec i s := by
  cases i
  case rxput b =>
    simp only [exec, execRxput, State.stage]
    split <;> rfl
  all_goals rfl

theorem performWord_with_resp (w : OpWord) (s : State) (r : Option Response) :
    performWord w { s with resp := r } = performWord w s := by
  cases hd : decode w with
  | error e => rw [performWord_error hd, performWord_error hd]; rfl
  | ok i => rw [performWord_ok hd, performWord_ok hd, exec_with_resp]

/-- Settles O13: no operation reads the last response, and every word is answered. -/
theorem noErrorStateIsKept : Obligations.NoErrorStateIsKept := by
  intro s r hne
  obtain ⟨w, rest, hport⟩ := List.exists_cons_of_ne_nil hne
  obtain ⟨t, a, hstep, hresp, _, _⟩ := step_answers_first_word hport
  have hport' : { s with resp := r }.port = w :: rest := hport
  refine ⟨?_, t, a, hstep, hresp⟩
  rw [step_cons hport, step_cons hport']
  exact performWord_with_resp w { s with port := rest } r

/-! ## How an operation fails -/

/-- The state in which an error leaves the block: nothing but the response is written, and a FLOAD that fails clears the
count too (R66, R178). -/
def State.failed (s : State) (e : ErrorKind) : State :=
  (if e = .invalidFrameLength then s.setRxlen 0 else s).raise e

theorem State.failed_resp (s : State) (e : ErrorKind) : (s.failed e).resp = some (.error e) := rfl

theorem State.failed_rxlen (s : State) (e : ErrorKind) :
    (s.failed e).rxlen = if e = .invalidFrameLength then 0 else s.rxlen :=
  apply_ite State.rxlen (e = .invalidFrameLength) (s.setRxlen 0) s

theorem State.failed_keeps (s : State) (e : ErrorKind) :
    KeepsFrame [] s (s.failed e) ∧ KeepsStaged s (s.failed e) ∧ KeepsTracker s (s.failed e) := by
  unfold State.failed
  split <;> exact ⟨keepsFrame_of_fr_eq rfl, keepsStaged_of_rxbuf_eq rfl, keepsTracker_of_fields rfl rfl rfl⟩

/-- The error that an operation can raise, if there is one (R66 to R68, R144, R177). -/
def possibleError : Instr → Option ErrorKind
  | .fload => some .invalidFrameLength
  | .fget _ | .fset _ _ => some .unknownField
  | .tsetbit _ _ | .tseton _ | .tsetoff _ => some .channelRange
  | _ => none

/-- `IllegalOperation` is raised by the decoding of a word, by no operation (R49, R51). -/
theorem possibleError_ne_illegalOperation (i : Instr) : possibleError i ≠ some .illegalOperation := by
  unfold possibleError
  split <;> decide

/-- The operation ends with OK. -/
def EndsOk (o : Out) : Prop := ∃ t r, o = .next t ∧ t.resp = some (.ok r)

theorem setChannel_ends (n : Byte) (v : Bool) (s : State) :
    EndsOk (setChannel n v s) ∨ setChannel n v s = .next (s.failed .channelRange) := by
  rw [setChannel_eq]
  split
  · exact .inr rfl
  · exact .inl ⟨_, _, rfl, rfl⟩

/-- An operation ends with OK, or with the one error that it can raise (R177, R178). -/
theorem exec_ends (i : Instr) (s : State) :
    EndsOk (exec i s) ∨ ∃ e, possibleError i = some e ∧ exec i s = .next (s.failed e) := by
  cases i
  case fload =>
    by_cases hlen : s.rxlen = 13
    · exact .inl ⟨_, _, (execFload_eq s).trans (if_pos hlen), rfl⟩
    · exact .inr ⟨_, rfl, (execFload_eq s).trans (if_neg hlen)⟩
  case fget f =>
    by_cases hf : f.toNat < 13
    · exact .inl ⟨_, _, execFget_of_lt hf s, rfl⟩
    · exact .inr ⟨_, rfl, execFget_of_ge (Nat.not_lt.mp hf) s⟩
  case fset f v =>
    by_cases hf : f.toNat < 13
    · exact .inl ⟨_, _, execFset_of_lt hf v s, rfl⟩
    · exact .inr ⟨_, rfl, execFset_of_ge (Nat.not_lt.mp hf) v s⟩
  case tsetbit n v => exact (setChannel_ends n v s).imp_right fun h => ⟨_, rfl, h⟩
  case tseton n => exact (setChannel_ends n true s).imp_right fun h => ⟨_, rfl, h⟩
  case tsetoff n => exact (setChannel_ends n false s).imp_right fun h => ⟨_, rfl, h⟩
  all_goals exact .inl ⟨_, _, rfl, rfl⟩

/-- An error response, from an operation or from decoding, determines the state that it leaves (R178). -/
theorem performWord_eq_failed {w : OpWord} {s t : State} {e : ErrorKind} (h : performWord w s = .next t)
    (he : t.resp = some (.error e)) : t = s.failed e := by
  cases hd : decode w with
  | error _ =>
    cases (performWord_error hd s).symm.trans h
    cases he
    rfl
  | ok i =>
    rw [performWord_ok hd] at h
    obtain ⟨t', r, h', hok⟩ | ⟨e', _, h'⟩ := exec_ends i s
    · cases h'.symm.trans h
      cases hok.symm.trans he
    · cases h'.symm.trans h
      cases (s.failed_resp e').symm.trans he
      rfl

theorem ErrorKind.code_ne_zero (e : ErrorKind) : e.code ≠ 0 := by cases e <;> decide

/-- Settles O12: the frame of `State.failed`, from the state with the word taken from the port. -/
theorem errorChangesNothingButStagedCount : Obligations.ErrorChangesNothingButStagedCount := by
  intro s t e hne hstep he
  obtain ⟨w, rest, hport⟩ := List.exists_cons_of_ne_nil hne
  rw [step_cons hport] at hstep
  obtain rfl := performWord_eq_failed hstep he
  obtain ⟨hframe, hstaged, htracker⟩ := State.failed_keeps { s with port := rest } e
  have hrxlen := State.failed_rxlen { s with port := rest } e
  exact ⟨rfl, e.code_ne_zero, rfl, hframe, hstaged, htracker, fun h => hrxlen.trans (if_pos h),
    fun h => hrxlen.trans (if_neg h)⟩

/-! ## The statuses of an opcode (R177) -/

theorem zero_mem_possibleStatuses (i : Instr) : 0 ∈ possibleStatuses (opcodeOf (encode i)).toNat := by
  cases i
  all_goals
    rw [encode, opcodeOf_wordOf]
    decide

theorem code_mem_possibleStatuses {i : Instr} {e : ErrorKind} (h : possibleError i = some e) :
    e.code.toNat ∈ possibleStatuses (opcodeOf (encode i)).toNat := by
  cases i <;> cases h
  all_goals
    rw [encode, opcodeOf_wordOf]
    decide

/-- The opcode of an illegal word has a reserved bit, if it is in the map at all (R48, R49). -/
theorem opcodeMap_ne_of_decode_error {w : OpWord} {e : Illegal} (hd : decode w = .error e) (i : Instr) :
    opcodeMap (opcodeOf w).toNat (operandOf w) ≠ some (0#64, i) := by
  intro hmap
  cases hd.symm.trans ((decode_eq_ok_iff w i).mpr ⟨_, hmap, BitVec.and_zero⟩)

/-- HASH and TSETALL have no reserved bit, so every word with their opcode is legal (R50). -/
theorem opcode_ne_of_decode_error {w : OpWord} {e : Illegal} (hd : decode w = .error e) :
    (opcodeOf w).toNat ≠ 0x20 ∧ (opcodeOf w).toNat ≠ 0x43 :=
  ⟨fun hopc => opcodeMap_ne_of_decode_error hd (.hash (operandOf w)) (by rw [hopc]; rfl),
    fun hopc => opcodeMap_ne_of_decode_error hd (.tsetall (operandOf w)) (by rw [hopc]; rfl)⟩

/-- Every opcode that has an illegal word has the status of `IllegalOperation`. -/
theorem four_mem_possibleStatuses {opc : Nat} (h : opc ≠ 0x20 ∧ opc ≠ 0x43) : 4 ∈ possibleStatuses opc := by
  unfold possibleStatuses
  rw [if_neg (by omega)]
  split_ifs <;> decide

theorem ErrorKind.code_toNat_eq_four_iff (e : ErrorKind) : e.code.toNat = 4 ↔ e = .illegalOperation := by
  cases e <;> decide

/-- An operation answers a status of its opcode, and never that of `IllegalOperation`. -/
theorem exec_status (i : Instr) (s : State) : ∃ t a, exec i s = .next t ∧ t.resp = some a ∧
    a.st.toNat ∈ possibleStatuses (opcodeOf (encode i)).toNat ∧ a.st.toNat ≠ 4 := by
  obtain ⟨t, r, h, hresp⟩ | ⟨e, hposs, h⟩ := exec_ends i s
  · exact ⟨t, _, h, hresp, zero_mem_possibleStatuses i, Nat.zero_ne_add_one 3⟩
  · refine ⟨_, _, h, rfl, code_mem_possibleStatuses hposs, fun hcode => ?_⟩
    obtain rfl := e.code_toNat_eq_four_iff.mp hcode
    exact possibleError_ne_illegalOperation i hposs

/-- Settles O14: a legal word answers as its operation does, an illegal one with status 4. -/
theorem statusIsOneOfTheTable : Obligations.StatusIsOneOfTheTable := by
  intro s w rest hport
  cases hd : decode w with
  | error e =>
    exact ⟨_, _, (step_cons hport).trans (performWord_error hd _), rfl,
      four_mem_possibleStatuses (opcode_ne_of_decode_error hd), iff_of_true rfl (by simp)⟩
  | ok i =>
    obtain ⟨t, a, h, hresp, hmem, hne⟩ := exec_status i { s with port := rest }
    rw [encode_of_decode hd] at hmem
    exact ⟨t, a, (step_of_decode_ok hport hd).trans h, hresp, hmem, iff_of_false hne (by simp)⟩

end Sys2Proof.Machine

/-! # Reset (70_reset_and_hazards.md R190 to R192)

At reset every register that an operation reads is zero. So each query is read off its own equation at zero, and the three
operations that write these zeros reach the reset state but for stale bytes of `RXBUF`. -/

namespace Sys2Proof.Machine

/-! ## The queries after reset (R191) -/

/-- The report of a frame with command code 0 (R100, R104, R108). -/
theorem report_of_systemCommand {fr : Frame} (h : commandCode fr = 0) :
    report fr = [.raw fr, .msgType (respFlag fr), .command 0 .systemCommand, .dlc fr[4]] ++ systemBody fr := by
  rw [report, reportHeader, h]
  rfl

/-- The zero byte 1 is a System command without the response flag, and the zero `d4` is its subcommand STOPP. -/
theorem report_zeroFrame : report zeroFrame =
    [.raw zeroFrame, .msgType false, .command 0 .systemCommand, .dlc 0, .devId 0 0 0 0, .subCmd .stopp] := by
  have hcode : commandCode zeroFrame = 0 := by decide
  have hsub : (dataByte zeroFrame 4).toNat = Subcommand.stopp.code := by decide
  rw [report_of_systemCommand hcode, systemBody_of_code .stopp hsub]
  rfl

theorem eq_zero_of_mem_zeroFrame {b : Byte} (hb : b ∈ zeroFrame.toList) : b = 0 :=
  List.eq_of_mem_replicate (Vector.toList_replicate ▸ hb)

/-- TSTR answers one '0' for each channel while no channel is on (R149). -/
theorem shortString_eq_replicate {s : State} (h : ∀ k, s.curChan k = false) :
    s.shortString = List.replicate s.nch '0' := by
  simp [State.shortString, h, List.map_const']

theorem shortString_resetFor (n : Nat) : (State.resetFor n).shortString = List.replicate n '0' :=
  shortString_eq_replicate (curChan_resetFor n)

theorem changes_resetFor (n : Nat) : (State.resetFor n).changes = [] :=
  (changes_eq_nil _).mpr (changed_resetFor n)

theorem answers_respond_of_eq {s : State} {r r' : Result} (h : r = r') : Answers (s.respond r) r' :=
  congrArg (fun r => some (Response.ok r)) h

/-- Settles O17: the frame is `zeroFrame`, no channel is on or changed, and the count 0 is not 13. -/
theorem queriesAfterReset : Obligations.QueriesAfterReset := by
  intro n _ _ s
  have hlen : s.rxlen.toNat ≠ 13 := (by decide : (0 : Byte).toNat ≠ 13)
  exact ⟨⟨_, zeroFrame, rfl, rfl, fun _ => eq_zero_of_mem_zeroFrame⟩,
    ⟨_, zeroFrame, exec_decode s, fun _ => eq_zero_of_mem_zeroFrame,
      answers_respond_of_eq (congrArg Result.report report_zeroFrame)⟩,
    ⟨_, rfl, answers_respond_of_eq (congrArg Result.chars (shortString_resetFor n))⟩,
    ⟨_, rfl, answers_respond_of_eq (congrArg Result.changes (changes_resetFor n))⟩,
    ⟨_, rfl, answers_respond_of_eq (congrArg Result.bit (changed_resetFor n))⟩,
    ⟨_, exec_fload_of_ne hlen, rfl⟩⟩

/-! ## The clearing run (R192) -/

theorem runOps_fclr (s : State) (is : List Instr) :
    ∃ t, runOps s (.fclr :: is) = runOps t is ∧ t.fr = zeroFrame ∧ t.nch = s.nch :=
  ⟨_, runOps_cons (decode_encode .fclr) rfl, rfl, rfl⟩

theorem runOps_treset (s : State) (is : List Instr) : ∃ t, runOps s (.treset :: is) = runOps t is ∧
    t.fr = s.fr ∧ t.cur = 0 ∧ t.prv = 0 ∧ t.nch = s.nch :=
  ⟨_, runOps_cons (decode_encode .treset) rfl, rfl, rfl, rfl, rfl⟩

/-- RXCLR as the last operation of a run. -/
theorem runOps_rxclr_last (s : State) :
    ∃ t, runOps s [.rxclr] = .next t ∧ t.rxlen = 0 ∧ SameFrameAndTracker s t :=
  ⟨_, runOps_singleton rfl, rfl, rfl, rfl, rfl, rfl⟩

/-- With nothing staged all of `RXBUF` is stale, so zero registers cannot be told from reset (R14, R190). -/
theorem obsEq_resetFor {t : State} (hfr : t.fr = zeroFrame) (hlen : t.rxlen = 0) (hcur : t.cur = 0) (hprv : t.prv = 0) :
    ObsEq (State.resetFor t.nch) t :=
  ⟨hfr, hlen, hcur, hprv, rfl, fun a ha => absurd ha a.not_lt_zero⟩

/-- Settles O18: FCLR zeroes the frame, TRESET the tracker, RXCLR the count, and each keeps what the others zeroed. -/
theorem clearSequenceReachesReset : Obligations.ClearSequenceReachesReset := by
  intro s
  obtain ⟨u, hfclr, hfr_u, hnch_u⟩ := runOps_fclr s [.treset, .rxclr]
  obtain ⟨v, htreset, hfr_v, hcur_v, hprv_v, hnch_v⟩ := runOps_treset u [.rxclr]
  obtain ⟨t, hrxclr, hlen, hfr, hcur, hprv, hnch⟩ := runOps_rxclr_last v
  refine ⟨t, hfclr.trans (htreset.trans hrxclr), ?_⟩
  rw [← hnch_u, ← hnch_v, ← hnch]
  exact obsEq_resetFor (hfr.trans (hfr_v.trans hfr_u)) hlen (hcur.trans hcur_v) (hprv.trans hprv_v)

end Sys2Proof.Machine
